-- ==== Sys2Proof/Word.lean ====
section
/-! DEFINITION. The two word sizes of the 5CT framer block: bytes on the links and in the queues, and the
16-bit quantities its frames carry (spec/00_scope.md R9, R10). -/

namespace Sys2Proof

/-- An unsigned 8-bit value (R9). -/
abbrev Byte := BitVec 8

/-- A 16-bit pattern: an address, a CRC, a register value or a raw sample (R9). -/
abbrev Half := BitVec 16

end Sys2Proof
end

