-- ==== Sys2Proof/Config.lean ====
section
/-! DEFINITION. The static parameters of spec/00_scope.md R5, the constraints of R6, and the values the spec leaves
open, as constants with no body. -/

namespace Sys2Proof

/-! Constants fixed by the source document (R5, "fixed by D0"). -/

/-- `CSF_SYNC1`. -/
def csfSync1 : Byte := 0xEB
/-- `CSF_SYNC2`. -/
def csfSync2 : Byte := 0x97
/-- `CSF_MIN_FRAME`: the length of a CSF frame without payload. -/
def csfMinFrame : Nat := 5
/-- `FFC_SYNC1`. -/
def ffcSync1 : Byte := 0xAA
/-- `FFC_SYNC2`. -/
def ffcSync2 : Byte := 0x55
/-- `FFC_LEN8`: byte 2 of a transmitted command frame. -/
def ffcLen8 : Byte := 0x08
/-- Each byte of `FFC_NOREADING`. -/
def ffcNoReading : Byte := 0xFE
/-- `MB_CRC_INIT`. -/
def mbCrcInit : Half := 0xFFFF
/-- `MB_CRC_POLY`. -/
def mbCrcPoly : Half := 0xA001

/-- The parameters of R5 that are not fixed by the source document. `none` for a depth or a burst limit stands for ∞.
The record is plain data; no operation writes it (20_memory R71). -/
structure Config where
  /-- `TELEM_MIN_RAW` -/
  telemMinRaw : Int
  /-- `TELEM_MAX_RAW` -/
  telemMaxRaw : Int
  /-- `FFC_TRAILER` (OPEN) -/
  ffcTrailer : Byte
  /-- `FFC_CMD_READ` (OPEN), used by the host sequences only -/
  ffcCmdRead : Byte
  /-- `FFC_CMD_WRITE` (OPEN), used by the host sequences only -/
  ffcCmdWrite : Byte
  /-- `FFC_READ_FILL`, used by the host sequences only -/
  ffcReadFill : Byte
  /-- `FFC_AUX[0..3]` (OPEN) -/
  ffcAux : Vector (Vector Byte 5) 4
  /-- `MB_FC_READ_HOLDING` -/
  mbFcReadHolding : Byte
  /-- `MB_FC_WRITE_REG` -/
  mbFcWriteReg : Byte
  /-- `MB_FC_WRITE_COIL` -/
  mbFcWriteCoil : Byte
  /-- `QDEPTH_CSF` -/
  qdepthCsf : Option Nat
  /-- `QDEPTH_FFC` -/
  qdepthFfc : Option Nat
  /-- `RDEPTH_MBC` -/
  rdepthMbc : Nat
  /-- `BURST_MAX` -/
  burstMax : Option Nat
deriving DecidableEq, Repr

/-- `n` does not exceed a limit that may be ∞. -/
abbrev withinLimit (limit : Option Nat) (n : Nat) : Prop := ∀ d ∈ limit, n ≤ d

/-- The constraints of R6, and the width R5 gives the two band limits. -/
abbrev Config.Ok (c : Config) : Prop :=
  (-32768 ≤ c.telemMinRaw ∧ c.telemMinRaw ≤ c.telemMaxRaw ∧ c.telemMaxRaw ≤ 32767) ∧
  (c.mbFcReadHolding ≠ c.mbFcWriteReg ∧ c.mbFcReadHolding ≠ c.mbFcWriteCoil ∧ c.mbFcWriteReg ≠ c.mbFcWriteCoil) ∧
  (c.mbFcReadHolding.getLsbD 7 = false ∧ c.mbFcWriteReg.getLsbD 7 = false ∧ c.mbFcWriteCoil.getLsbD 7 = false) ∧
  (∀ d ∈ c.qdepthCsf, 260 ≤ d) ∧ (∀ d ∈ c.qdepthFfc, 8 ≤ d) ∧ 260 ≤ c.rdepthMbc

/-! Values the spec leaves OPEN (R5, R8): constants of which nothing can be proved (log entry 7). -/

/-- `FFC_TRAILER`, OPEN (93 U6). -/
opaque Config.openTrailer : Byte
/-- `FFC_CMD_READ`, OPEN (93 U7). -/
opaque Config.openCmdRead : Byte
/-- `FFC_CMD_WRITE`, OPEN (93 U7). -/
opaque Config.openCmdWrite : Byte
/-- `FFC_AUX[0..3]`, OPEN (93 U8). -/
opaque Config.openAux : Vector (Vector Byte 5) 4

/-- The order in which waiting agents are served is open (60_exceptions R270, 93 U22): a free value, applied to a
counter of State (log entry 2). -/
opaque Config.arbiterChoice : Nat → Nat

/-- The parameter values of R5: the spec's defaults, the OPEN ones unknown. -/
def Config.standard : Config where
  telemMinRaw := -960
  telemMaxRaw := 1600
  ffcTrailer := Config.openTrailer
  ffcCmdRead := Config.openCmdRead
  ffcCmdWrite := Config.openCmdWrite
  ffcReadFill := 0x00
  ffcAux := Config.openAux
  mbFcReadHolding := 0x03
  mbFcWriteReg := 0x06
  mbFcWriteCoil := 0x05
  qdepthCsf := none
  qdepthFfc := none
  rdepthMbc := 260
  burstMax := none

end Sys2Proof
end

