-- ==== Sys2Proof/Syntax.lean ====
section
/-! DEFINITION. The instruction set: one constructor per row of spec/opcode_table.json (22 operations of
spec/30_encoding.md R91, 27 reserved codes of R93, 11 wire formats of R80 to R88), and the form in which the host
presents an instruction to the block: the request record of R90, or the bytes of one frame on a link. -/

namespace Sys2Proof

/-- The units that `opsel[5:4]` selects (R90); `reserved` is the code `11`. -/
inductive UnitId where
  | csf | ffc | mbc | reserved
deriving DecidableEq, Repr

/-- Which way a frame crosses the link: received by the block or transmitted by it. -/
inductive Direction where
  | receive | transmit
deriving DecidableEq, Repr

/-- The three request functions the block builds (30_encoding R87, R91). -/
inductive ReqKind where
  | readHolding | writeReg | writeCoil
deriving DecidableEq, Repr

/-- The wire-format rows of the opcode table, in the table's order. -/
inductive WireFormat where
  | csfFrame | ffcCmdframe | ffcSample
  | ffcAuxEnter | ffcAuxExit | ffcAuxSuspend | ffcAuxResume
  | mbcRequest | mbcRespRead | mbcRespWrite | mbcRespException
deriving DecidableEq, Repr

/-- The request record of R90. -/
structure Request where
  opsel : BitVec 6
  a : Byte
  c : Byte
  b : Half
  d : Half
  data : List Byte
deriving DecidableEq, Repr

/-- What the host presents: a request record (R90), or the bytes of one frame of a named wire format crossing a link
in a given direction (log entry 9). -/
inductive Item where
  | request (r : Request)
  | wire (format : WireFormat) (dir : Direction) (bytes : List Byte)
deriving DecidableEq, Repr

/-- The `LEN` and trailer bytes of a command frame: fixed when the block transmits it, unchecked when it receives it
(R83). -/
structure FixedBytes where
  lenByte : Byte
  trailer : Byte
deriving DecidableEq, Repr

/-- The instruction set, in the order of spec/opcode_table.json. -/
inductive Instr where
  | csfOpen
  | csfClose
  | csfPush (bs : List Byte)
  | csfDecode (fe : Bool) (fc : Byte)
  | csfClear
  | csfEncode (cmd : Byte) (payload : List Byte)
  | ffcOpen
  | ffcClose
  | ffcPush (bs : List Byte)
  | ffcDecode
  | ffcClear
  | ffcEncode (cmd : Byte) (addr : Half) (value : Byte)
  | ffcAux (k : BitVec 2)
  | ffcClassify
  | mbcOpen
  | mbcClose
  | mbcRx (b : Byte)
  | mbcTimeout
  | mbcReq (slave : Byte) (kind : BitVec 2) (addr : Half) (data : Half)
  | mbcCrcrst
  | mbcCrcbyte (b : Byte)
  | mbcCrcrd
  | reservedUnit11 (op : BitVec 4)
  | reserved000110
  | reserved000111
  | reserved001000
  | reserved001001
  | reserved001010
  | reserved001011
  | reserved001100
  | reserved001101
  | reserved001110
  | reserved001111
  | reserved011000
  | reserved011001
  | reserved011010
  | reserved011011
  | reserved011100
  | reserved011101
  | reserved011110
  | reserved011111
  | reserved100100
  | reserved100110
  | reserved100111
  | reserved101011
  | reserved101100
  | reserved101101
  | reserved101110
  | reserved101111
  | wireCsfFrame (dir : Direction) (cmd : Byte) (payload : List Byte)
  | wireFfcCmdframe (dir : Direction) (cmd : Byte) (addr : Half) (value : Byte) (fixed : FixedBytes)
  | wireFfcSample (raw : Half)
  | wireFfcAuxEnter
  | wireFfcAuxExit
  | wireFfcAuxSuspend
  | wireFfcAuxResume
  | wireMbcRequest (slave : Byte) (kind : ReqKind) (addr : Half) (data : Half)
  | wireMbcRespRead (slave : Byte) (func : BitVec 7) (data : List Byte)
  | wireMbcRespWrite (slave : Byte) (func : BitVec 7) (addr : Half) (data : Half)
  | wireMbcRespException (slave : Byte) (func : BitVec 7) (code : Byte)
deriving DecidableEq, Repr

end Sys2Proof
end

