-- ==== Sys2Proof/Machine/Operands.lean ====
section
/-! DEFINITION. Operand forms: how an operation picks its operands out of the request record (spec/30_encoding.md R90,
R91), how 16-bit quantities are cut into bytes and assembled from them (R89, spec/20_memory.md R54 to R58), and the
reads of the byte sequences (spec/00_scope.md R10, R12). -/

namespace Sys2Proof.Machine

/-- `v[15:8]` (R9). -/
def hiByte (v : Half) : Byte := v.extractLsb' 8 8

/-- `v[7:0]` (R9). -/
def loByte (v : Half) : Byte := v.extractLsb' 0 8

/-- `hi || lo`: the more significant byte first (R9, R89). -/
def joinBytes (hi lo : Byte) : Half := hi ++ lo

/-- `sext_16(h || l)` as an integer (R84, 41_ffc_codec R165). -/
def rawOf (h l : Byte) : Int := (joinBytes h l).toInt

/-- The function byte `0 || f` of an ordinary response (R88). -/
def plainFunc (f : BitVec 7) : Byte := (0 : BitVec 1) ++ f

/-- The function byte `1 || f` of an exception response (R88). -/
def exceptionFunc (f : BitVec 7) : Byte := (1 : BitVec 1) ++ f

/-- The low seven bits of a function byte. -/
def funcLow (b : Byte) : BitVec 7 := b.extractLsb' 0 7

/-- `c[0]`, the filter enable of `CSF.DECODE` (R91). -/
def filterEnableOf (c : Byte) : Bool := c.getLsbD 0

/-- `a[1:0]`, the frame index of `FFC.AUX` (R91). -/
def auxIndexOf (a : Byte) : BitVec 2 := a.extractLsb' 0 2

/-- `c[1:0]`, the request kind of `MBC.REQ` (R91). -/
def kindOf (c : Byte) : BitVec 2 := c.extractLsb' 0 2

/-- The code of a request kind (R91). -/
def kindCode : ReqKind → BitVec 2
  | .readHolding => 0
  | .writeReg => 1
  | .writeCoil => 2

/-- The function code of a request kind (42_mbc_crc16 R186). -/
def funcOfKind (cfg : Config) : ReqKind → Byte
  | .readHolding => cfg.mbFcReadHolding
  | .writeReg => cfg.mbFcWriteReg
  | .writeCoil => cfg.mbFcWriteCoil

/-- The request kind a code names; `11` names none (R91, R92). -/
def kindOfCode (k : BitVec 2) : Option ReqKind :=
  if k = 0 then some .readHolding
  else if k = 1 then some .writeReg
  else if k = 2 then some .writeCoil
  else none

/-- The request kind a function code belongs to (R87). -/
def kindOfFunc (cfg : Config) (func : Byte) : Option ReqKind :=
  if func = cfg.mbFcReadHolding then some .readHolding
  else if func = cfg.mbFcWriteReg then some .writeReg
  else if func = cfg.mbFcWriteCoil then some .writeCoil
  else none

/-- `FFC_AUX[k]` (R85). -/
def auxFrame (cfg : Config) (k : BitVec 2) : List Byte := (cfg.ffcAux.get k.toFin).toList

/-- `S[i]` of a byte sequence; every rule that reads it guards `i < len(S)` (20_memory R50). -/
def memByte (s : List Byte) (i : Nat) : Byte := s.getD i 0

/-- `MemRead(S, i, n)`, that is `S[i..i+n)`, used only where `i + n ≤ len(S)` (00_scope R12). -/
def memRead (s : List Byte) (i n : Nat) : List Byte := (s.drop i).take n

end Sys2Proof.Machine
end

