-- ==== Sys2Proof/Machine/Flags.lean ====
section
/-! DEFINITION. The computed check values: the 8-bit sum of a CSF frame (spec/30_encoding.md R81), the CRC-16 of unit
MBC (spec/42_mbc_crc16.md R181, R182) and the `matched` flag of a decode pass (spec/40_csf_framer.md R130). The block
stores no condition code (spec/10_state.md R27). -/

namespace Sys2Proof.Machine

/-- `sum8(s)`: the sum of the bytes modulo 256 (00_scope R10). -/
def sum8 (s : List Byte) : Byte := s.foldl (· + ·) 0

/-- One shift of the CRC: the low bit is tested before the shift, the shift is logical (R182). -/
def crcShift (x : Half) : Half :=
  if x.getLsbD 0 then (x >>> 1) ^^^ mbCrcPoly else x >>> 1

/-- `n` shifts of the CRC. -/
def crcShifts : Nat → Half → Half
  | 0, x => x
  | n + 1, x => crcShifts n (crcShift x)

/-- `CrcStep(acc, b)` (R182). -/
def crcStep (acc : Half) (b : Byte) : Half := crcShifts 8 (acc ^^^ b.setWidth 16)

/-- `CRC16(bs)` (R181). -/
def crc16 (bs : List Byte) : Half := bs.foldl crcStep mbCrcInit

/-- `matched`: the filter is on and some frame of the pass carries the expected command (R130). -/
def matchedFlag (fe : Bool) (fc : Byte) (commands : List Byte) : Bool := fe && commands.any (· == fc)

end Sys2Proof.Machine
end

