-- ==== Sys2Proof/Machine/Frames.lean ====
section
/-! DEFINITION. The wire formats of spec/30_encoding.md R80 to R88 as byte sequences, first byte on the wire first
(spec/20_memory.md R54). -/

namespace Sys2Proof.Machine

/-- The CSF frame `EB 97 CMD LEN VALUE CHECKSUM` (R80, R81, 40_csf_framer R133). -/
def csfFrameBytes (cmd : Byte) (payload : List Byte) : List Byte :=
  let f := [csfSync1, csfSync2, cmd, BitVec.ofNat 8 payload.length] ++ payload
  f ++ [sum8 f]

/-- The FFC command frame with given `LEN` and trailer bytes (R83). -/
def ffcFrameBytes (cmd : Byte) (addr : Half) (value : Byte) (fixed : FixedBytes) : List Byte :=
  [ffcSync1, ffcSync2, fixed.lenByte, cmd, hiByte addr, loByte addr, value, fixed.trailer]

/-- The bytes a transmitted command frame carries as `LEN` and trailer (R83, 41_ffc_codec R160). -/
def sentFixedBytes (cfg : Config) : FixedBytes := ⟨ffcLen8, cfg.ffcTrailer⟩

/-- The telemetry sample (R84). -/
def sampleBytes (raw : Half) : List Byte := [hiByte raw, loByte raw]

/-- A Modbus frame is its body followed by its CRC, low byte first (R87, R88, 42_mbc_crc16 R181). -/
def withCrc (body : List Byte) : List Byte :=
  body ++ [loByte (crc16 body), hiByte (crc16 body)]

/-- The MBC request (R87, 42_mbc_crc16 R186). -/
def mbcRequestBytes (slave func : Byte) (addr data : Half) : List Byte :=
  withCrc [slave, func, hiByte addr, loByte addr, hiByte data, loByte data]

/-- The read response (R88). -/
def mbcReadBytes (slave : Byte) (f : BitVec 7) (data : List Byte) : List Byte :=
  withCrc ([slave, plainFunc f, BitVec.ofNat 8 data.length] ++ data)

/-- The write response (R88). -/
def mbcWriteBytes (slave : Byte) (f : BitVec 7) (addr data : Half) : List Byte :=
  withCrc [slave, plainFunc f, hiByte addr, loByte addr, hiByte data, loByte data]

/-- The exception response (R88). -/
def mbcExceptionBytes (slave : Byte) (f : BitVec 7) (code : Byte) : List Byte :=
  withCrc [slave, exceptionFunc f, code]

end Sys2Proof.Machine
end

