-- ==== Sys2Proof/WellFormed.lean ====
section
/-! DEFINITION. Which instructions are well formed under a configuration: the operand limits of spec/30_encoding.md
R92 for the operations, and for the wire formats the limits their one-byte length fields and their fixed bytes set
(R80, R83, R88). An ill-formed operation still runs, and answers `IllegalOp`. -/

namespace Sys2Proof

/-- R92: the burst of a push has 1 to `BURST_MAX` bytes. -/
def burstLegal (cfg : Config) (bs : List Byte) : Bool :=
  decide (1 ≤ bs.length ∧ withinLimit cfg.burstMax bs.length)

/-- R92: the payload of a CSF frame has at most 255 bytes. -/
def payloadLegal (payload : List Byte) : Bool := decide (payload.length ≤ 255)

/-- R92: `kind = 11` names no request. -/
def kindLegal (kind : BitVec 2) : Bool := decide (kind ≠ 3)

/-- R83: `LEN` and the trailer of a transmitted command frame are `0x08` and `FFC_TRAILER`; those of a received one are
not checked. -/
def fixedBytesLegal (cfg : Config) (dir : Direction) (fixed : FixedBytes) : Bool :=
  match dir with
  | .receive => true
  | .transmit => decide (fixed.lenByte = ffcLen8 ∧ fixed.trailer = cfg.ffcTrailer)

/-- R88: the byte count of a read response is one byte. -/
def byteCountLegal (data : List Byte) : Bool := decide (data.length ≤ 255)

/-- The well-formedness of an instruction. -/
def Instr.wellFormed (cfg : Config) : Instr → Bool
  | .csfPush bs => burstLegal cfg bs
  | .ffcPush bs => burstLegal cfg bs
  | .csfEncode _ payload => payloadLegal payload
  | .mbcReq _ kind _ _ => kindLegal kind
  | .wireCsfFrame _ _ payload => payloadLegal payload
  | .wireFfcCmdframe dir _ _ _ fixed => fixedBytesLegal cfg dir fixed
  | .wireMbcRespRead _ _ data => byteCountLegal data
  | .csfOpen | .csfClose | .csfDecode _ _ | .csfClear | .ffcOpen | .ffcClose | .ffcDecode | .ffcClear
  | .ffcEncode _ _ _ | .ffcAux _ | .ffcClassify | .mbcOpen | .mbcClose | .mbcRx _ | .mbcTimeout | .mbcCrcrst
  | .mbcCrcbyte _ | .mbcCrcrd | .reservedUnit11 _ | .reserved000110 | .reserved000111 | .reserved001000
  | .reserved001001 | .reserved001010 | .reserved001011 | .reserved001100 | .reserved001101 | .reserved001110
  | .reserved001111 | .reserved011000 | .reserved011001 | .reserved011010 | .reserved011011 | .reserved011100
  | .reserved011101 | .reserved011110 | .reserved011111 | .reserved100100 | .reserved100110 | .reserved100111
  | .reserved101011 | .reserved101100 | .reserved101101 | .reserved101110 | .reserved101111 | .wireFfcSample _
  | .wireFfcAuxEnter | .wireFfcAuxExit | .wireFfcAuxSuspend | .wireFfcAuxResume | .wireMbcRequest _ _ _ _
  | .wireMbcRespWrite _ _ _ _ | .wireMbcRespException _ _ _ => true

end Sys2Proof
end

