-- ==== Sys2Proof/Decode.lean ====
section
/-! DEFINITION. The decoder and, after it, the encoder. A request record is decoded by the operation map of
spec/30_encoding.md R91 and R93, every operand an operation does not name being ignored (R90); the bytes of a frame
are decoded by the layout of the wire format they are presented as (R80 to R88). -/

namespace Sys2Proof

open Sys2Proof.Machine

/-- Why an item is not an instruction. A request record is never rejected: every `opsel` has a row. No rejection stops
the machine: bytes of no format still cross the link (log entry 9). -/
inductive DecodeError where
  /-- No row of the operation map has this code (never raised: the map covers all 64 codes). -/
  | noSuchCode (opsel : BitVec 6)
  /-- The bytes are not laid out as the wire format they are presented as. -/
  | notOfFormat (format : WireFormat)
  /-- The wire format never crosses the link in this direction. -/
  | wrongDirection (format : WireFormat)
deriving DecidableEq, Repr

/-- A row of the operation map: `opsel` is of the row when its masked bits are the row's pattern. -/
structure OpRow where
  pattern : BitVec 6
  mask : BitVec 6
  build : Request → Instr

/-- The operations of unit CSF (R91). -/
def csfRows : List OpRow :=
  [⟨0b000000, 0b111111, fun _ => .csfOpen⟩,
   ⟨0b000001, 0b111111, fun _ => .csfClose⟩,
   ⟨0b000010, 0b111111, fun r => .csfPush r.data⟩,
   ⟨0b000011, 0b111111, fun r => .csfDecode (filterEnableOf r.c) r.a⟩,
   ⟨0b000100, 0b111111, fun _ => .csfClear⟩,
   ⟨0b000101, 0b111111, fun r => .csfEncode r.a r.data⟩]

/-- The operations of unit FFC (R91). -/
def ffcRows : List OpRow :=
  [⟨0b010000, 0b111111, fun _ => .ffcOpen⟩,
   ⟨0b010001, 0b111111, fun _ => .ffcClose⟩,
   ⟨0b010010, 0b111111, fun r => .ffcPush r.data⟩,
   ⟨0b010011, 0b111111, fun _ => .ffcDecode⟩,
   ⟨0b010100, 0b111111, fun _ => .ffcClear⟩,
   ⟨0b010101, 0b111111, fun r => .ffcEncode r.a r.b r.c⟩,
   ⟨0b010110, 0b111111, fun r => .ffcAux (auxIndexOf r.a)⟩,
   ⟨0b010111, 0b111111, fun _ => .ffcClassify⟩]

/-- The operations of unit MBC (R91). -/
def mbcRows : List OpRow :=
  [⟨0b100000, 0b111111, fun _ => .mbcOpen⟩,
   ⟨0b100001, 0b111111, fun _ => .mbcClose⟩,
   ⟨0b100010, 0b111111, fun r => .mbcRx r.a⟩,
   ⟨0b100011, 0b111111, fun _ => .mbcTimeout⟩,
   ⟨0b100101, 0b111111, fun r => .mbcReq r.a (kindOf r.c) r.b r.d⟩,
   ⟨0b101000, 0b111111, fun _ => .mbcCrcrst⟩,
   ⟨0b101001, 0b111111, fun r => .mbcCrcbyte r.a⟩,
   ⟨0b101010, 0b111111, fun _ => .mbcCrcrd⟩]

/-- The reserved codes (R93). -/
def reservedRows : List OpRow :=
  [⟨0b110000, 0b110000, fun r => .reservedUnit11 (r.opsel.extractLsb' 0 4)⟩,
   ⟨0b000110, 0b111111, fun _ => .reserved000110⟩,
   ⟨0b000111, 0b111111, fun _ => .reserved000111⟩,
   ⟨0b001000, 0b111111, fun _ => .reserved001000⟩,
   ⟨0b001001, 0b111111, fun _ => .reserved001001⟩,
   ⟨0b001010, 0b111111, fun _ => .reserved001010⟩,
   ⟨0b001011, 0b111111, fun _ => .reserved001011⟩,
   ⟨0b001100, 0b111111, fun _ => .reserved001100⟩,
   ⟨0b001101, 0b111111, fun _ => .reserved001101⟩,
   ⟨0b001110, 0b111111, fun _ => .reserved001110⟩,
   ⟨0b001111, 0b111111, fun _ => .reserved001111⟩,
   ⟨0b011000, 0b111111, fun _ => .reserved011000⟩,
   ⟨0b011001, 0b111111, fun _ => .reserved011001⟩,
   ⟨0b011010, 0b111111, fun _ => .reserved011010⟩,
   ⟨0b011011, 0b111111, fun _ => .reserved011011⟩,
   ⟨0b011100, 0b111111, fun _ => .reserved011100⟩,
   ⟨0b011101, 0b111111, fun _ => .reserved011101⟩,
   ⟨0b011110, 0b111111, fun _ => .reserved011110⟩,
   ⟨0b011111, 0b111111, fun _ => .reserved011111⟩,
   ⟨0b100100, 0b111111, fun _ => .reserved100100⟩,
   ⟨0b100110, 0b111111, fun _ => .reserved100110⟩,
   ⟨0b100111, 0b111111, fun _ => .reserved100111⟩,
   ⟨0b101011, 0b111111, fun _ => .reserved101011⟩,
   ⟨0b101100, 0b111111, fun _ => .reserved101100⟩,
   ⟨0b101101, 0b111111, fun _ => .reserved101101⟩,
   ⟨0b101110, 0b111111, fun _ => .reserved101110⟩,
   ⟨0b101111, 0b111111, fun _ => .reserved101111⟩]

/-- The operation map (R91, R93). -/
def operationMap : List OpRow := csfRows ++ ffcRows ++ mbcRows ++ reservedRows

/-- The code is of the row. -/
def OpRow.covers (row : OpRow) (opsel : BitVec 6) : Bool := opsel &&& row.mask == row.pattern

/-- The operation a request record names (R90, R91, R93). -/
def decodeRequest (r : Request) : Except DecodeError Instr :=
  match operationMap.find? (fun row => row.covers r.opsel) with
  | some row => .ok (row.build r)
  | none => .error (.noSuchCode r.opsel)

/-- The instruction whose frame the bytes would be, if they are of the format: the fields are read at the offsets of
R80 to R88. -/
def wireCandidate (cfg : Config) (dir : Direction) (bs : List Byte) : WireFormat → Option Instr
  | .csfFrame => some (.wireCsfFrame dir (memByte bs 2) (memRead bs 4 (memByte bs 3).toNat))
  | .ffcCmdframe =>
    some (.wireFfcCmdframe dir (memByte bs 3) (joinBytes (memByte bs 4) (memByte bs 5)) (memByte bs 6)
      ⟨memByte bs 2, memByte bs 7⟩)
  | .ffcSample => some (.wireFfcSample (joinBytes (memByte bs 0) (memByte bs 1)))
  | .ffcAuxEnter => some .wireFfcAuxEnter
  | .ffcAuxExit => some .wireFfcAuxExit
  | .ffcAuxSuspend => some .wireFfcAuxSuspend
  | .ffcAuxResume => some .wireFfcAuxResume
  | .mbcRequest =>
    (kindOfFunc cfg (memByte bs 1)).map fun kind =>
      .wireMbcRequest (memByte bs 0) kind (joinBytes (memByte bs 2) (memByte bs 3))
        (joinBytes (memByte bs 4) (memByte bs 5))
  | .mbcRespRead =>
    some (.wireMbcRespRead (memByte bs 0) (funcLow (memByte bs 1)) (memRead bs 3 (memByte bs 2).toNat))
  | .mbcRespWrite =>
    some (.wireMbcRespWrite (memByte bs 0) (funcLow (memByte bs 1)) (joinBytes (memByte bs 2) (memByte bs 3))
      (joinBytes (memByte bs 4) (memByte bs 5)))
  | .mbcRespException => some (.wireMbcRespException (memByte bs 0) (funcLow (memByte bs 1)) (memByte bs 2))

/-- The bytes of the frame a wire instruction stands for (R80 to R88); an operation stands for no frame. `LEN` and
the trailer of a transmitted command frame are `0x08` and `FFC_TRAILER` (R83). -/
def frameOf (cfg : Config) : Instr → List Byte
  | .wireCsfFrame _ cmd payload => csfFrameBytes cmd payload
  | .wireFfcCmdframe .receive cmd addr value fixed => ffcFrameBytes cmd addr value fixed
  | .wireFfcCmdframe .transmit cmd addr value _ => ffcFrameBytes cmd addr value (sentFixedBytes cfg)
  | .wireFfcSample raw => sampleBytes raw
  | .wireFfcAuxEnter => auxFrame cfg 0
  | .wireFfcAuxExit => auxFrame cfg 1
  | .wireFfcAuxSuspend => auxFrame cfg 2
  | .wireFfcAuxResume => auxFrame cfg 3
  | .wireMbcRequest slave kind addr data => mbcRequestBytes slave (funcOfKind cfg kind) addr data
  | .wireMbcRespRead slave f data => mbcReadBytes slave f data
  | .wireMbcRespWrite slave f addr data => mbcWriteBytes slave f addr data
  | .wireMbcRespException slave f code => mbcExceptionBytes slave f code
  | .csfOpen | .csfClose | .csfDecode _ _ | .csfClear | .ffcOpen | .ffcClose | .ffcDecode | .ffcClear
  | .ffcEncode _ _ _ | .ffcAux _ | .ffcClassify | .mbcOpen | .mbcClose | .mbcRx _ | .mbcTimeout | .mbcCrcrst
  | .mbcCrcbyte _ | .mbcCrcrd | .reservedUnit11 _ | .reserved000110 | .reserved000111 | .reserved001000
  | .reserved001001 | .reserved001010 | .reserved001011 | .reserved001100 | .reserved001101 | .reserved001110
  | .reserved001111 | .reserved011000 | .reserved011001 | .reserved011010 | .reserved011011 | .reserved011100
  | .reserved011101 | .reserved011110 | .reserved011111 | .reserved100100 | .reserved100110 | .reserved100111
  | .reserved101011 | .reserved101100 | .reserved101101 | .reserved101110 | .reserved101111 | .csfPush _
  | .csfEncode _ _ | .ffcPush _ | .mbcReq _ _ _ _ => []

/-- Whether frames of the format cross the link in the direction (R80, R83 to R85, R87, R88). -/
def directionLegal : WireFormat → Direction → Bool
  | .csfFrame, _ => true
  | .ffcCmdframe, _ => true
  | .ffcSample, dir => dir == .receive
  | .ffcAuxEnter, dir => dir == .transmit
  | .ffcAuxExit, dir => dir == .transmit
  | .ffcAuxSuspend, dir => dir == .transmit
  | .ffcAuxResume, dir => dir == .transmit
  | .mbcRequest, dir => dir == .transmit
  | .mbcRespRead, dir => dir == .receive
  | .mbcRespWrite, dir => dir == .receive
  | .mbcRespException, dir => dir == .receive

/-- Bytes are of a format when they are what the format lays out for the fields read from them: sync bytes, length,
checksum and CRC included. Bytes of no format are no instruction; what they do is Machine/Cycle.lean's `carryBytes`. -/
def decodeWire (cfg : Config) (format : WireFormat) (dir : Direction) (bs : List Byte) : Except DecodeError Instr :=
  if directionLegal format dir then
    match wireCandidate cfg dir bs format with
    | some i => if frameOf cfg i = bs then .ok i else .error (.notOfFormat format)
    | none => .error (.notOfFormat format)
  else .error (.wrongDirection format)

/-- The decoder. -/
def decode (cfg : Config) : Item → Except DecodeError Instr
  | .request r => decodeRequest r
  | .wire format dir bs => decodeWire cfg format dir bs

/-- The encoder: the request record of an operation, written from R91 and R93 with every bit it does not name 0, and
the frame of a wire instruction, written from R80 to R88. -/
def encode (cfg : Config) (i : Instr) : Item :=
  match i with
  | .csfOpen => .request ⟨0b000000, 0, 0, 0, 0, []⟩
  | .csfClose => .request ⟨0b000001, 0, 0, 0, 0, []⟩
  | .csfPush bs => .request ⟨0b000010, 0, 0, 0, 0, bs⟩
  | .csfDecode fe fc => .request ⟨0b000011, fc, (BitVec.ofBool fe).setWidth 8, 0, 0, []⟩
  | .csfClear => .request ⟨0b000100, 0, 0, 0, 0, []⟩
  | .csfEncode cmd payload => .request ⟨0b000101, cmd, 0, 0, 0, payload⟩
  | .ffcOpen => .request ⟨0b010000, 0, 0, 0, 0, []⟩
  | .ffcClose => .request ⟨0b010001, 0, 0, 0, 0, []⟩
  | .ffcPush bs => .request ⟨0b010010, 0, 0, 0, 0, bs⟩
  | .ffcDecode => .request ⟨0b010011, 0, 0, 0, 0, []⟩
  | .ffcClear => .request ⟨0b010100, 0, 0, 0, 0, []⟩
  | .ffcEncode cmd addr value => .request ⟨0b010101, cmd, value, addr, 0, []⟩
  | .ffcAux k => .request ⟨0b010110, k.setWidth 8, 0, 0, 0, []⟩
  | .ffcClassify => .request ⟨0b010111, 0, 0, 0, 0, []⟩
  | .mbcOpen => .request ⟨0b100000, 0, 0, 0, 0, []⟩
  | .mbcClose => .request ⟨0b100001, 0, 0, 0, 0, []⟩
  | .mbcRx b => .request ⟨0b100010, b, 0, 0, 0, []⟩
  | .mbcTimeout => .request ⟨0b100011, 0, 0, 0, 0, []⟩
  | .mbcReq slave kind addr data => .request ⟨0b100101, slave, kind.setWidth 8, addr, data, []⟩
  | .mbcCrcrst => .request ⟨0b101000, 0, 0, 0, 0, []⟩
  | .mbcCrcbyte b => .request ⟨0b101001, b, 0, 0, 0, []⟩
  | .mbcCrcrd => .request ⟨0b101010, 0, 0, 0, 0, []⟩
  | .reservedUnit11 op => .request ⟨(0b11 : BitVec 2) ++ op, 0, 0, 0, 0, []⟩
  | .reserved000110 => .request ⟨0b000110, 0, 0, 0, 0, []⟩
  | .reserved000111 => .request ⟨0b000111, 0, 0, 0, 0, []⟩
  | .reserved001000 => .request ⟨0b001000, 0, 0, 0, 0, []⟩
  | .reserved001001 => .request ⟨0b001001, 0, 0, 0, 0, []⟩
  | .reserved001010 => .request ⟨0b001010, 0, 0, 0, 0, []⟩
  | .reserved001011 => .request ⟨0b001011, 0, 0, 0, 0, []⟩
  | .reserved001100 => .request ⟨0b001100, 0, 0, 0, 0, []⟩
  | .reserved001101 => .request ⟨0b001101, 0, 0, 0, 0, []⟩
  | .reserved001110 => .request ⟨0b001110, 0, 0, 0, 0, []⟩
  | .reserved001111 => .request ⟨0b001111, 0, 0, 0, 0, []⟩
  | .reserved011000 => .request ⟨0b011000, 0, 0, 0, 0, []⟩
  | .reserved011001 => .request ⟨0b011001, 0, 0, 0, 0, []⟩
  | .reserved011010 => .request ⟨0b011010, 0, 0, 0, 0, []⟩
  | .reserved011011 => .request ⟨0b011011, 0, 0, 0, 0, []⟩
  | .reserved011100 => .request ⟨0b011100, 0, 0, 0, 0, []⟩
  | .reserved011101 => .request ⟨0b011101, 0, 0, 0, 0, []⟩
  | .reserved011110 => .request ⟨0b011110, 0, 0, 0, 0, []⟩
  | .reserved011111 => .request ⟨0b011111, 0, 0, 0, 0, []⟩
  | .reserved100100 => .request ⟨0b100100, 0, 0, 0, 0, []⟩
  | .reserved100110 => .request ⟨0b100110, 0, 0, 0, 0, []⟩
  | .reserved100111 => .request ⟨0b100111, 0, 0, 0, 0, []⟩
  | .reserved101011 => .request ⟨0b101011, 0, 0, 0, 0, []⟩
  | .reserved101100 => .request ⟨0b101100, 0, 0, 0, 0, []⟩
  | .reserved101101 => .request ⟨0b101101, 0, 0, 0, 0, []⟩
  | .reserved101110 => .request ⟨0b101110, 0, 0, 0, 0, []⟩
  | .reserved101111 => .request ⟨0b101111, 0, 0, 0, 0, []⟩
  | .wireCsfFrame dir _ _ => .wire .csfFrame dir (frameOf cfg i)
  | .wireFfcCmdframe dir _ _ _ _ => .wire .ffcCmdframe dir (frameOf cfg i)
  | .wireFfcSample _ => .wire .ffcSample .receive (frameOf cfg i)
  | .wireFfcAuxEnter => .wire .ffcAuxEnter .transmit (frameOf cfg i)
  | .wireFfcAuxExit => .wire .ffcAuxExit .transmit (frameOf cfg i)
  | .wireFfcAuxSuspend => .wire .ffcAuxSuspend .transmit (frameOf cfg i)
  | .wireFfcAuxResume => .wire .ffcAuxResume .transmit (frameOf cfg i)
  | .wireMbcRequest _ _ _ _ => .wire .mbcRequest .transmit (frameOf cfg i)
  | .wireMbcRespRead _ _ _ => .wire .mbcRespRead .receive (frameOf cfg i)
  | .wireMbcRespWrite _ _ _ _ => .wire .mbcRespWrite .receive (frameOf cfg i)
  | .wireMbcRespException _ _ _ => .wire .mbcRespException .receive (frameOf cfg i)

/-! The words of spec/opcode_table.json. -/

/-- The request record whose bits are `w`, numbered from `opsel[0]` up: `opsel` bits 5..0, then `a`, `c`, `b`, `d`; bits
the row does not have are 0 and `data` is empty (log entry 12). -/
def requestOfWord (w : Nat) : Request where
  opsel := BitVec.ofNat 6 w
  a := BitVec.ofNat 8 (w >>> 6)
  c := BitVec.ofNat 8 (w >>> 14)
  b := BitVec.ofNat 16 (w >>> 22)
  d := BitVec.ofNat 16 (w >>> 38)
  data := []

/-- The `n` bytes of a word, the least significant first. -/
def bytesOfWord : Nat → Nat → List Byte
  | 0, _ => []
  | n + 1, w => BitVec.ofNat 8 w :: bytesOfWord n (w >>> 8)

/-- The formats with fixed bytes in the source, in the table's order, each with a direction it has (log entry 12). -/
def tableFormats : List (WireFormat × Direction) :=
  [(.csfFrame, .receive), (.ffcCmdframe, .receive), (.ffcSample, .receive), (.mbcRequest, .transmit),
   (.mbcRespRead, .receive), (.mbcRespWrite, .receive), (.mbcRespException, .receive)]

/-- The wire instruction of a word, if it is one. -/
def wireItemOfWord (nbits w : Nat) : Option Item :=
  let bs := bytesOfWord (nbits / 8) w
  (tableFormats.find? fun fd => (decodeWire Config.standard fd.1 fd.2 bs).isOk).map fun fd => .wire fd.1 fd.2 bs

/-- The item a row's word stands for: a row of one byte is an `opsel` row, a longer one a wire format. -/
def tableItem (nbits w : Nat) : Option Item :=
  if nbits ≤ 8 then some (.request (requestOfWord w)) else wireItemOfWord nbits w

/-- The instruction the decoder reads from the word of a row of the opcode table. -/
def decodeTableWord (nbits w : Nat) : Option Instr :=
  match tableItem nbits w with
  | some item => (decode Config.standard item).toOption
  | none => none

end Sys2Proof
end

