-- ==== Sys2Proof/Machine/State.lean ====
section
/-! DEFINITION. The state of the 5CT framer block (spec/10_state.md R22), the records it gives its host
(spec/30_encoding.md R99, spec/60_exceptions.md R250), the host side of its interface, and the state after reset
(spec/70_reset_and_hazards.md R290). -/

namespace Sys2Proof.Machine

/-! ## Records a unit returns -/

/-- The status codes (60_exceptions R250). `ackTimeout` is a host sequence's, never the block's. -/
inductive Status where
  | ok | linkUnavailable | illegalOp | queueFull | mbIdle
  | modbusCrcError | modbusSlaveMismatch | modbusException | modbusFuncMismatch
  | modbusTimeout | ackTimeout
deriving DecidableEq, Repr

/-- The verdict on a complete Modbus response (42_mbc_crc16 R192). -/
inductive Verdict where
  | crcError (crcCalc crcRx : Half)
  | slaveMismatch (slave : Byte)
  | exception (func code : Byte)
  | funcMismatch (func : Byte)
  | readOk (slave func bc : Byte) (data : List Byte)
  | writeOk (slave func : Byte) (addr data16 : Half)
deriving DecidableEq, Repr

/-- The fields of a result record besides its status (30_encoding R91). `incomplete` is `done = 0` of `MBC.RX`, and
`complete` is `done = 1` with the fields of the verdict. -/
inductive Fields where
  | none
  | decoded (matched : Bool) (nframes : Nat)
  | units (nunits : Nat)
  | consumed (count : Nat)
  | incomplete
  | complete (verdict : Verdict)
  | received (count : Nat)
  | crc (value : Half)
deriving DecidableEq, Repr

/-- The result record of an operation (00_scope R13, 30_encoding R99). -/
structure Result where
  status : Status
  fields : Fields
deriving DecidableEq, Repr

/-- The event records (30_encoding R99). -/
inductive Event where
  | frameReceived (command : Byte) (payload : List Byte) (valid : Bool)
  | cmdFrame (command : Byte) (address : Half) (value lenByte trailer : Byte)
  | telemSample (raw : Int)
  | telemOutOfRange (raw : Int)
deriving DecidableEq, Repr

/-- What a unit delivers to its host, in one order: the events of an operation, then its result (00_scope R13,
20_memory R67). -/
inductive Delivery where
  | event (e : Event)
  | result (r : Result)
deriving DecidableEq, Repr

/-! ## The units -/

/-- Unit CSF: `CSF.open`, `CSF.Q` (10_state R22), and its two output streams (00_scope R13). -/
structure Csf where
  isOpen : Bool
  q : List Byte
  out : List Delivery
  tx : List Byte
deriving DecidableEq, Repr

/-- Unit FFC: `FFC.open`, `FFC.Q`, and its two output streams. -/
structure Ffc where
  isOpen : Bool
  q : List Byte
  out : List Delivery
  tx : List Byte
deriving DecidableEq, Repr

/-- Unit MBC: `MBC.open`, `MBC.crc`, `MBC.busy`, `MBC.exp_slave`, `MBC.exp_func`, `MBC.R`, and its two output
streams. -/
structure Mbc where
  isOpen : Bool
  crc : Half
  busy : Bool
  expSlave : Byte
  expFunc : Byte
  r : List Byte
  out : List Delivery
  tx : List Byte
deriving DecidableEq, Repr

/-! ## The host side -/

/-- The host agents: a link reader and a transactor for each unit (10_state R21, 60_exceptions R270). -/
inductive Agent where
  | csfReader | csfTransactor | ffcReader | ffcTransactor | mbcReader | mbcTransactor
deriving DecidableEq, Repr

/-- The operations each agent has requested and no unit has accepted yet, in the order the agent issued them (R270). -/
structure Pending where
  csfReader : List Item
  csfTransactor : List Item
  ffcReader : List Item
  ffcTransactor : List Item
  mbcReader : List Item
  mbcTransactor : List Item
deriving DecidableEq, Repr

/-- The model's own fields: the waiting requests, the operation that has been accepted and not yet executed, the reset
input (70_reset R290), the counter the arbiter's free choice is applied to, and the results of requests to the
reserved unit (30_encoding R93). See log entries 1 to 5 and 13. -/
structure HostSide where
  pending : Pending
  accepted : Option Item
  resetPin : Bool
  tick : Nat
  out : List Delivery
deriving DecidableEq, Repr

/-- The whole machine: the static parameters (00_scope R5), the three units (10_state R20) and the host side. -/
structure State where
  cfg : Config
  csf : Csf
  ffc : Ffc
  mbc : Mbc
  host : HostSide
deriving DecidableEq, Repr

/-! ## Why a step stops -/

/-- The faults: there is none. Every failure of an operation is a status in a result record (60_exceptions R259), and the
block has no trap (R262). Safe. -/
inductive Fault where
deriving DecidableEq, Repr

/-- The refusals. -/
inductive Refusal where
  /-- Raised by `exec` for an instruction without a meaning; no arm does. Safe. -/
  | notModelled (mnemonic : String)
  /-- Raised by the cycle in a state whose configuration breaks a constraint of 00_scope R6, which that rule demands.
  Safe. -/
  | badConfiguration
deriving DecidableEq, Repr

/-! ## Reset -/

/-- Unit CSF after reset (10_state R22). -/
def Csf.atReset : Csf := { isOpen := false, q := [], out := [], tx := [] }

/-- Unit FFC after reset (10_state R22). -/
def Ffc.atReset : Ffc := { isOpen := false, q := [], out := [], tx := [] }

/-- Unit MBC after reset (10_state R22). -/
def Mbc.atReset : Mbc :=
  { isOpen := false, crc := 0xFFFF, busy := false, expSlave := 0x00, expFunc := 0x00, r := [], out := [], tx := [] }

/-- No operation requested by any agent. -/
def Pending.nothing : Pending := ⟨[], [], [], [], [], []⟩

/-- A host that has requested nothing. DESIGN CHOICE: the spec gives the host no state (log entries 1 to 5 and 13). -/
def HostSide.atReset : HostSide :=
  { pending := Pending.nothing, accepted := none, resetPin := false, tick := 0, out := [] }

/-- The machine right after reset (70_reset R290): every element of 10_state R22 at its reset value, nothing delivered
and nothing transmitted, the parameters at the values of 00_scope R5. -/
def State.reset : State :=
  { cfg := Config.standard, csf := Csf.atReset, ffc := Ffc.atReset, mbc := Mbc.atReset, host := HostSide.atReset }

end Sys2Proof.Machine
end

