-- ==== Sys2Proof/Machine/Ops.lean ====
section
/-! DEFINITION. The shared operations: the queue primitives (spec/00_scope.md R12), the delivery of events and of a
result record (R13), `raise` and the order of the tests every operation makes first (spec/60_exceptions.md R262,
R263), and reset (spec/70_reset_and_hazards.md R290). The block has no trap entry and no trap return (R262, R265):
`raise` is all there is of either. -/

namespace Sys2Proof.Machine

/-! ## Queue primitives -/

/-- `QAppend(S, bs)` (R12). -/
def qAppend (s bs : List Byte) : List Byte := s ++ bs

/-- `QDrop(S, n)` (R12). -/
def qDrop (s : List Byte) (n : Nat) : List Byte := s.drop n

/-- Whether a push of `n` bytes onto a queue of `len` bytes stays within the depth (20_memory R52). -/
def fits (depth : Option Nat) (len n : Nat) : Bool := decide (withinLimit depth (len + n))

/-! ## The status codes -/

/-- The number of a status (60_exceptions R250). -/
def statusCode : Status → BitVec 4
  | .ok => 0
  | .linkUnavailable => 1
  | .illegalOp => 2
  | .queueFull => 3
  | .mbIdle => 4
  | .modbusCrcError => 5
  | .modbusSlaveMismatch => 6
  | .modbusException => 7
  | .modbusFuncMismatch => 8
  | .modbusTimeout => 9
  | .ackTimeout => 10

/-! ## Setting one unit -/

/-- The state with another unit CSF. -/
def State.setCsf (s : State) (u : Csf) : State := { s with csf := u }

/-- The state with another unit FFC. -/
def State.setFfc (s : State) (u : Ffc) : State := { s with ffc := u }

/-- The state with another unit MBC. -/
def State.setMbc (s : State) (u : Mbc) : State := { s with mbc := u }

/-- The state with another host side. -/
def State.setHost (s : State) (h : HostSide) : State := { s with host := h }

/-! ## Outputs -/

/-- What one operation delivers: its events in order, then its result (R13). -/
def deliveries (es : List Event) (r : Result) : List Delivery := es.map .event ++ [.result r]

/-- The end of an operation of a unit: its events and its result go to the unit's stream (R13). A request to the
reserved unit is answered to the host (log entry 5). -/
def deliver (u : UnitId) (es : List Event) (r : Result) (s : State) : State :=
  match u with
  | .csf => s.setCsf { s.csf with out := s.csf.out ++ deliveries es r }
  | .ffc => s.setFfc { s.ffc with out := s.ffc.out ++ deliveries es r }
  | .mbc => s.setMbc { s.mbc with out := s.mbc.out ++ deliveries es r }
  | .reserved => s.setHost { s.host with out := s.host.out ++ deliveries es r }

/-- `tx(bs)` (R13, 20_memory R69). The reserved unit transmits nothing. -/
def transmit (u : UnitId) (bs : List Byte) (s : State) : State :=
  match u with
  | .csf => s.setCsf { s.csf with tx := s.csf.tx ++ bs }
  | .ffc => s.setFfc { s.ffc with tx := s.ffc.tx ++ bs }
  | .mbc => s.setMbc { s.mbc with tx := s.mbc.tx ++ bs }
  | .reserved => s

/-- The `OK` result without fields. -/
def okResult : Result := ⟨.ok, .none⟩

/-- `raise <Status>`: no state change, no event, the status as the result (R13, 60_exceptions R251, R262). -/
def raise (u : UnitId) (status : Status) (s : State) : State := deliver u [] ⟨status, .none⟩ s

/-! ## The tests every operation makes first -/

/-- The `open` bit of a unit (10_state R24); the reserved unit has none. -/
def isOpen (u : UnitId) (s : State) : Bool :=
  match u with
  | .csf => s.csf.isOpen
  | .ffc => s.ffc.isOpen
  | .mbc => s.mbc.isOpen
  | .reserved => false

/-- The order of R263: the form of the operands, then the unit's `open` bit, then the operation's own work. -/
def guarded (u : UnitId) (legal : Bool) (body : State → State) (s : State) : State :=
  if legal then
    if isOpen u s then body s else raise u .linkUnavailable s
  else raise u .illegalOp s

/-! ## Reset -/

/-- The effect of the reset input (70_reset R290, R291): every element of the units at its reset value, an operation
that was accepted and not executed abandoned; nothing is transmitted, no event is emitted, and what was delivered or
transmitted before stays so. Requests no unit had accepted still wait (log entry 13). -/
def resetBlock (s : State) : State :=
  { cfg := s.cfg
    csf := { Csf.atReset with out := s.csf.out, tx := s.csf.tx }
    ffc := { Ffc.atReset with out := s.ffc.out, tx := s.ffc.tx }
    mbc := { Mbc.atReset with out := s.mbc.out, tx := s.mbc.tx }
    host := { s.host with accepted := none, resetPin := false } }

/-! ## Reading the storage -/

/-- The three byte sequences that are the block's storage (20_memory R50). -/
inductive Store where
  | csfQ | ffcQ | mbcR
deriving DecidableEq, Repr

/-- The bytes of a store. -/
def storeBytes (s : State) : Store → List Byte
  | .csfQ => s.csf.q
  | .ffcQ => s.ffc.q
  | .mbcR => s.mbc.r

/-- The byte of a store at an index; there is none at or past its length (20_memory R50). -/
def readByte (s : State) (st : Store) (i : Nat) : Option Byte := (storeBytes s st)[i]?

end Sys2Proof.Machine
end

