-- ==== Sys2Proof/Machine/Arbiter.lean ====
section
/-! DEFINITION. How an operation comes to a unit: the host agents' waiting requests, the choice among them that the
spec leaves open (spec/60_exceptions.md R270, spec/93_implementation_defined.md U22), and the operation that has been
accepted. Log entries 1 to 3. -/

namespace Sys2Proof.Machine

/-- The requests waiting at an agent, oldest first. -/
def waitingAt (p : Pending) : Agent → List Item
  | .csfReader => p.csfReader
  | .csfTransactor => p.csfTransactor
  | .ffcReader => p.ffcReader
  | .ffcTransactor => p.ffcTransactor
  | .mbcReader => p.mbcReader
  | .mbcTransactor => p.mbcTransactor

/-- The oldest request of an agent is taken away. -/
def takeFrom (p : Pending) : Agent → Pending
  | .csfReader => { p with csfReader := p.csfReader.tail }
  | .csfTransactor => { p with csfTransactor := p.csfTransactor.tail }
  | .ffcReader => { p with ffcReader := p.ffcReader.tail }
  | .ffcTransactor => { p with ffcTransactor := p.ffcTransactor.tail }
  | .mbcReader => { p with mbcReader := p.mbcReader.tail }
  | .mbcTransactor => { p with mbcTransactor := p.mbcTransactor.tail }

/-- The six agents. -/
def allAgents : List Agent := [.csfReader, .csfTransactor, .ffcReader, .ffcTransactor, .mbcReader, .mbcTransactor]

/-- The agents that have a request waiting. -/
def waitingAgents (p : Pending) : List Agent := allAgents.filter fun a => !(waitingAt p a).isEmpty

/-- How many requests wait in all. -/
def waitingCount (p : Pending) : Nat := (allAgents.map fun a => (waitingAt p a).length).sum

/-- Which of the waiting agents is served: a free choice when there is more than one (R270). -/
def chooseAgent (tick : Nat) : List Agent → Option Agent
  | [] => none
  | [a] => some a
  | a :: b :: rest => some ((a :: b :: rest).getD (Config.arbiterChoice tick % (rest.length + 2)) a)

/-- The oldest request of the chosen agent is accepted; nothing happens when no agent has one. -/
def acceptNext (s : State) : State :=
  match chooseAgent s.host.tick (waitingAgents s.host.pending) with
  | none => s
  | some a =>
    s.setHost { s.host with
      accepted := (waitingAt s.host.pending a).head?
      pending := takeFrom s.host.pending a
      tick := s.host.tick + 1 }

/-- The accepted operation leaves the accept stage: it is about to be executed. -/
def retire (s : State) : State := s.setHost { s.host with accepted := none }

/-- An item is put where the next step takes its instruction from. -/
def present (item : Item) (s : State) : State := s.setHost { s.host with accepted := some item, resetPin := false }

end Sys2Proof.Machine
end

