-- ==== Sys2Proof/Machine/Csf.lean ====
section
/-! DEFINITION. Unit CSF, the checksummed-byte-stream framer: spec/40_csf_framer.md. -/

namespace Sys2Proof.Machine

/-! ## The decode pass -/

/-- A decoded frame (00_scope R15). -/
structure Frame where
  command : Byte
  payload : List Byte
deriving DecidableEq, Repr

/-- S1: the least index at which `EB 97` stand (R124, R125). -/
def syncIndex : List Byte → Option Nat
  | x :: y :: rest =>
    if x = csfSync1 ∧ y = csfSync2 then some 0 else (syncIndex (y :: rest)).map (· + 1)
  | [_] => none
  | [] => none

/-- S4: the total length of the candidate at the head of the queue (R124, 30_encoding R82). -/
def csfTotal (q : List Byte) : Nat := 5 + (memByte q 3).toNat

/-- S5: the candidate's checksum is the sum of what precedes it. -/
def csfChecks (q : List Byte) : Bool := sum8 (q.take (csfTotal q - 1)) == memByte q (csfTotal q - 1)

/-- S5: the frame a checked candidate holds. -/
def csfFrameAt (q : List Byte) : Frame := ⟨memByte q 2, memRead q 4 (memByte q 3).toNat⟩

/-- The decode pass of R124 from S1 on: the queue it leaves and the frames it decodes. Each way from S1 back to S1
removes a byte (R129), so a number of rounds above the length of the queue is never used up (log entry 17). -/
def csfPass : Nat → List Byte → List Byte × List Frame
  | 0, q => (q, [])
  | rounds + 1, q =>
    match syncIndex q with
    | none => ([], [])
    | some p =>
      let q := qDrop q p
      if q.length < csfMinFrame then (q, [])
      else if q.length < csfTotal q then (q, [])
      else if csfChecks q then
        let left := qDrop q (csfTotal q)
        if csfMinFrame ≤ left.length then
          let tail := csfPass rounds left
          (tail.1, csfFrameAt q :: tail.2)
        else (left, [csfFrameAt q])
      else csfPass rounds (qDrop q 1)

/-- The whole pass on a queue. -/
def csfDecodePass (q : List Byte) : List Byte × List Frame := csfPass (q.length + 1) q

/-- The event of a decoded frame; `valid` is always 1 (10_state R27). -/
def frameEvent (f : Frame) : Event := .frameReceived f.command f.payload true

/-! ## What the operations do, once their first tests have passed -/

/-- The body of `CSF.OPEN` (R122). -/
def csfOpenBody (s : State) : State := deliver .csf [] okResult (s.setCsf { s.csf with q := [], isOpen := true })

/-- The body of `CSF.CLOSE` (R123). -/
def csfCloseBody (s : State) : State := deliver .csf [] okResult (s.setCsf { s.csf with q := [], isOpen := false })

/-- The body of `CSF.PUSH` (R131). -/
def csfPushBody (bs : List Byte) (s : State) : State :=
  if fits s.cfg.qdepthCsf s.csf.q.length bs.length then
    deliver .csf [] okResult (s.setCsf { s.csf with q := qAppend s.csf.q bs })
  else raise .csf .queueFull s

/-- The body of `CSF.DECODE` (R124, R130). -/
def csfDecodeBody (fe : Bool) (fc : Byte) (s : State) : State :=
  let pass := csfDecodePass s.csf.q
  deliver .csf (pass.2.map frameEvent)
    ⟨.ok, .decoded (matchedFlag fe fc (pass.2.map Frame.command)) pass.2.length⟩
    (s.setCsf { s.csf with q := pass.1 })

/-- The body of `CSF.CLEAR` (R132). -/
def csfClearBody (s : State) : State := deliver .csf [] okResult (s.setCsf { s.csf with q := [] })

/-- The body of `CSF.ENCODE` (R133). -/
def csfEncodeBody (cmd : Byte) (payload : List Byte) (s : State) : State :=
  deliver .csf [] okResult (transmit .csf (csfFrameBytes cmd payload) s)

/-! ## The operations -/

/-- A push of a burst into `CSF.Q` (R120, R131, 30_encoding R92). -/
def csfPush (bs : List Byte) (s : State) : State := guarded .csf (burstLegal s.cfg bs) (csfPushBody bs) s

/-- The transmission of a frame by unit CSF (R120, R133, 30_encoding R92). -/
def csfEncode (cmd : Byte) (payload : List Byte) (s : State) : State :=
  guarded .csf (payloadLegal payload) (csfEncodeBody cmd payload) s

/-- `CSF.OPEN` (R122): works on a closed unit and on an open one. -/
def execCsfOpen (s : State) : Host.Outcome State Fault Refusal := .next (csfOpenBody s)

/-- `CSF.CLOSE` (R123). -/
def execCsfClose (s : State) : Host.Outcome State Fault Refusal := .next (guarded .csf true csfCloseBody s)

/-- `CSF.PUSH` (R131). -/
def execCsfPush (bs : List Byte) (s : State) : Host.Outcome State Fault Refusal := .next (csfPush bs s)

/-- `CSF.DECODE` (R124). -/
def execCsfDecode (fe : Bool) (fc : Byte) (s : State) : Host.Outcome State Fault Refusal :=
  .next (guarded .csf true (csfDecodeBody fe fc) s)

/-- `CSF.CLEAR` (R132). -/
def execCsfClear (s : State) : Host.Outcome State Fault Refusal := .next (guarded .csf true csfClearBody s)

/-- `CSF.ENCODE` (R133). -/
def execCsfEncode (cmd : Byte) (payload : List Byte) (s : State) : Host.Outcome State Fault Refusal :=
  .next (csfEncode cmd payload s)

end Sys2Proof.Machine
end

