-- ==== Sys2Proof/Machine/Ffc.lean ====
section
/-! DEFINITION. Unit FFC, the fixed-frame codec with telemetry classifier: spec/41_ffc_codec.md. -/

namespace Sys2Proof.Machine

/-! ## The classifier -/

/-- What one classify step does: how many bytes it consumes, the events it emits and the queue it leaves. -/
structure Classified where
  consumed : Nat
  events : List Event
  q : List Byte
deriving DecidableEq, Repr

/-- The event of a command frame at the head of the queue (R152, R153). -/
def cmdFrameAt (q : List Byte) : Event :=
  .cmdFrame (memByte q 3) (joinBytes (memByte q 4) (memByte q 5)) (memByte q 6) (memByte q 2) (memByte q 7)

/-- The events of a telemetry sample: the no-reading test on the two bytes, then the band, closed at both ends (R154). -/
def sampleEvents (cfg : Config) (h l : Byte) : List Event :=
  if h = ffcNoReading ∧ l = ffcNoReading then []
  else if rawOf h l < cfg.telemMinRaw ∨ rawOf h l > cfg.telemMaxRaw then [.telemOutOfRange (rawOf h l)]
  else [.telemSample (rawOf h l)]

/-- The body of `FFC.CLASSIFY` on a queue (R152). -/
def classifyQueue (cfg : Config) (q : List Byte) : Classified :=
  if 8 ≤ q.length ∧ memByte q 0 = ffcSync1 ∧ memByte q 1 = ffcSync2 then
    ⟨8, [cmdFrameAt q], qDrop q 8⟩
  else if 2 ≤ q.length then
    ⟨2, sampleEvents cfg (memByte q 0) (memByte q 1), qDrop q 2⟩
  else ⟨0, [], q⟩

/-- The loop of `FFC.DECODE` (R156): the count of classify steps, the events and the queue it leaves. Each step removes
2 or 8 bytes, so a number of rounds not below the length of the queue is never used up (log entry 17). -/
def ffcPass (cfg : Config) : Nat → List Byte → Nat × List Event × List Byte
  | 0, q => (0, [], q)
  | rounds + 1, q =>
    if 2 ≤ q.length then
      let step := classifyQueue cfg q
      let tail := ffcPass cfg rounds step.q
      (tail.1 + 1, step.events ++ tail.2.1, tail.2.2)
    else (0, [], q)

/-- The whole pass on a queue. -/
def ffcDecodePass (cfg : Config) (q : List Byte) : Nat × List Event × List Byte := ffcPass cfg q.length q

/-! ## What the operations do, once their first tests have passed -/

/-- The body of `FFC.OPEN` (R151). -/
def ffcOpenBody (s : State) : State := deliver .ffc [] okResult (s.setFfc { s.ffc with q := [], isOpen := true })

/-- The body of `FFC.CLOSE` (R159). -/
def ffcCloseBody (s : State) : State := deliver .ffc [] okResult (s.setFfc { s.ffc with q := [], isOpen := false })

/-- The body of `FFC.PUSH` (R157). -/
def ffcPushBody (bs : List Byte) (s : State) : State :=
  if fits s.cfg.qdepthFfc s.ffc.q.length bs.length then
    deliver .ffc [] okResult (s.setFfc { s.ffc with q := qAppend s.ffc.q bs })
  else raise .ffc .queueFull s

/-- The body of `FFC.CLEAR` (R158). -/
def ffcClearBody (s : State) : State := deliver .ffc [] okResult (s.setFfc { s.ffc with q := [] })

/-- The body of `FFC.CLASSIFY` (R152). -/
def ffcClassifyBody (s : State) : State :=
  let c := classifyQueue s.cfg s.ffc.q
  deliver .ffc c.events ⟨.ok, .consumed c.consumed⟩ (s.setFfc { s.ffc with q := c.q })

/-- The body of `FFC.DECODE` (R156). -/
def ffcDecodeBody (s : State) : State :=
  let pass := ffcDecodePass s.cfg s.ffc.q
  deliver .ffc pass.2.1 ⟨.ok, .units pass.1⟩ (s.setFfc { s.ffc with q := pass.2.2 })

/-- The body of `FFC.ENCODE` (R160): `LEN` is `0x08` and the trailer the parameter. -/
def ffcEncodeBody (cmd : Byte) (addr : Half) (value : Byte) (s : State) : State :=
  deliver .ffc [] okResult (transmit .ffc (ffcFrameBytes cmd addr value (sentFixedBytes s.cfg)) s)

/-- The body of `FFC.AUX` (R161). -/
def ffcAuxBody (k : BitVec 2) (s : State) : State :=
  deliver .ffc [] okResult (transmit .ffc (auxFrame s.cfg k) s)

/-! ## The operations -/

/-- A push of a burst into `FFC.Q` (R150, R157, 30_encoding R92). -/
def ffcPush (bs : List Byte) (s : State) : State := guarded .ffc (burstLegal s.cfg bs) (ffcPushBody bs) s

/-- The transmission of a command frame (R150, R160). -/
def ffcEncode (cmd : Byte) (addr : Half) (value : Byte) (s : State) : State :=
  guarded .ffc true (ffcEncodeBody cmd addr value) s

/-- The transmission of an auxiliary frame (R150, R161). -/
def ffcAux (k : BitVec 2) (s : State) : State := guarded .ffc true (ffcAuxBody k) s

/-- `FFC.OPEN` (R151). -/
def execFfcOpen (s : State) : Host.Outcome State Fault Refusal := .next (ffcOpenBody s)

/-- `FFC.CLOSE` (R159). -/
def execFfcClose (s : State) : Host.Outcome State Fault Refusal := .next (guarded .ffc true ffcCloseBody s)

/-- `FFC.PUSH` (R157). -/
def execFfcPush (bs : List Byte) (s : State) : Host.Outcome State Fault Refusal := .next (ffcPush bs s)

/-- `FFC.DECODE` (R156). -/
def execFfcDecode (s : State) : Host.Outcome State Fault Refusal := .next (guarded .ffc true ffcDecodeBody s)

/-- `FFC.CLEAR` (R158). -/
def execFfcClear (s : State) : Host.Outcome State Fault Refusal := .next (guarded .ffc true ffcClearBody s)

/-- `FFC.ENCODE` (R160). -/
def execFfcEncode (cmd : Byte) (addr : Half) (value : Byte) (s : State) : Host.Outcome State Fault Refusal :=
  .next (ffcEncode cmd addr value s)

/-- `FFC.AUX` (R161). -/
def execFfcAux (k : BitVec 2) (s : State) : Host.Outcome State Fault Refusal := .next (ffcAux k s)

/-- `FFC.CLASSIFY` (R152). -/
def execFfcClassify (s : State) : Host.Outcome State Fault Refusal := .next (guarded .ffc true ffcClassifyBody s)

end Sys2Proof.Machine
end

