-- ==== Sys2Proof/Machine/Mbc.lean ====
section
/-! DEFINITION. Unit MBC, the CRC-16 generator and Modbus RTU response validator: spec/42_mbc_crc16.md. -/

namespace Sys2Proof.Machine

/-! ## The response -/

/-- `MbRespLen(h, exp_func)`, of the second and third bytes received (R190). -/
def mbRespLen (cfg : Config) (h1 h2 expFunc : Byte) : Nat :=
  if h1.getLsbD 7 then 5
  else if expFunc = cfg.mbFcReadHolding then 5 + h2.toNat
  else 8

/-- The length the response whose first bytes are in `r` must have (R190, R191). -/
def mbRequired (cfg : Config) (expFunc : Byte) (r : List Byte) : Nat :=
  mbRespLen cfg (memByte r 1) (memByte r 2) expFunc

/-- `len(R) ≥ 3` and `len(R) = MbRespLen(R[0..3), exp_func)` (R191). -/
def mbComplete (cfg : Config) (expFunc : Byte) (r : List Byte) : Bool :=
  decide (3 ≤ r.length ∧ r.length = mbRequired cfg expFunc r)

/-- `MbCheck(exp_slave, exp_func, R)`: the first test that fails decides (R192, 60_exceptions R264). -/
def mbCheck (cfg : Config) (expSlave expFunc : Byte) (r : List Byte) : Verdict :=
  let n := mbRequired cfg expFunc r
  let crcCalc := crc16 (r.take (n - 2))
  let crcRx := joinBytes (memByte r (n - 1)) (memByte r (n - 2))
  if crcCalc ≠ crcRx then .crcError crcCalc crcRx
  else if memByte r 0 ≠ expSlave then .slaveMismatch (memByte r 0)
  else if (memByte r 1).getLsbD 7 then .exception (memByte r 1) (memByte r 2)
  else if memByte r 1 ≠ expFunc then .funcMismatch (memByte r 1)
  else if expFunc = cfg.mbFcReadHolding then
    .readOk (memByte r 0) (memByte r 1) (memByte r 2) (memRead r 3 (memByte r 2).toNat)
  else
    .writeOk (memByte r 0) (memByte r 1) (joinBytes (memByte r 2) (memByte r 3))
      (joinBytes (memByte r 4) (memByte r 5))

/-- The status a verdict is returned with (R191, 60_exceptions R250). -/
def verdictStatus : Verdict → Status
  | .crcError _ _ => .modbusCrcError
  | .slaveMismatch _ => .modbusSlaveMismatch
  | .exception _ _ => .modbusException
  | .funcMismatch _ => .modbusFuncMismatch
  | .readOk _ _ _ _ => .ok
  | .writeOk _ _ _ _ => .ok

/-- The result of the byte that completes a response: `done = 1` with the verdict (R191). -/
def verdictResult (v : Verdict) : Result := ⟨verdictStatus v, .complete v⟩

/-! ## What the operations do, once their first tests have passed -/

/-- The body of `MBC.OPEN` (R187). -/
def mbcOpenBody (s : State) : State :=
  deliver .mbc [] okResult (s.setMbc { s.mbc with r := [], busy := false, isOpen := true })

/-- The body of `MBC.CLOSE` (R188). -/
def mbcCloseBody (s : State) : State :=
  deliver .mbc [] okResult (s.setMbc { s.mbc with r := [], busy := false, isOpen := false })

/-- The body of `MBC.RX` (R191). -/
def mbcRxBody (b : Byte) (s : State) : State :=
  if s.mbc.busy then
    let r := qAppend s.mbc.r [b]
    if mbComplete s.cfg s.mbc.expFunc r then
      deliver .mbc [] (verdictResult (mbCheck s.cfg s.mbc.expSlave s.mbc.expFunc r))
        (s.setMbc { s.mbc with r := [], busy := false })
    else deliver .mbc [] ⟨.ok, .incomplete⟩ (s.setMbc { s.mbc with r := r })
  else raise .mbc .mbIdle s

/-- The body of `MBC.TIMEOUT` (R193). -/
def mbcTimeoutBody (s : State) : State :=
  if s.mbc.busy then
    deliver .mbc [] ⟨.modbusTimeout, .received s.mbc.r.length⟩ (s.setMbc { s.mbc with r := [], busy := false })
  else raise .mbc .mbIdle s

/-- The body of `MBC.REQ` for one of the three kinds (R186). -/
def mbcReqBody (slave : Byte) (kind : ReqKind) (addr data : Half) (s : State) : State :=
  deliver .mbc [] okResult
    (transmit .mbc (mbcRequestBytes slave (funcOfKind s.cfg kind) addr data)
      (s.setMbc { s.mbc with expSlave := slave, expFunc := funcOfKind s.cfg kind, r := [], busy := true }))

/-- The three CRC operations work with the link open or closed and raise nothing (R180). -/
def crcOperation (value : Half) (r : Result) (s : State) : State :=
  deliver .mbc [] r (s.setMbc { s.mbc with crc := value })

/-! ## The operations -/

/-- One received byte (R180, R191). -/
def mbcRx (b : Byte) (s : State) : State := guarded .mbc true (mbcRxBody b) s

/-- A request of a kind given by its code; `11` is no kind (R180, R186, 30_encoding R92). -/
def mbcReq (slave : Byte) (kind : BitVec 2) (addr data : Half) (s : State) : State :=
  match kindOfCode kind with
  | some k => guarded .mbc true (mbcReqBody slave k addr data) s
  | none => raise .mbc .illegalOp s

/-- `MBC.OPEN` (R187). -/
def execMbcOpen (s : State) : Host.Outcome State Fault Refusal := .next (mbcOpenBody s)

/-- `MBC.CLOSE` (R188). -/
def execMbcClose (s : State) : Host.Outcome State Fault Refusal := .next (guarded .mbc true mbcCloseBody s)

/-- `MBC.RX` (R191). -/
def execMbcRx (b : Byte) (s : State) : Host.Outcome State Fault Refusal := .next (mbcRx b s)

/-- `MBC.TIMEOUT` (R193). -/
def execMbcTimeout (s : State) : Host.Outcome State Fault Refusal := .next (guarded .mbc true mbcTimeoutBody s)

/-- `MBC.REQ` (R186). -/
def execMbcReq (slave : Byte) (kind : BitVec 2) (addr data : Half) (s : State) : Host.Outcome State Fault Refusal :=
  .next (mbcReq slave kind addr data s)

/-- `MBC.CRCRST` (R183). -/
def execMbcCrcrst (s : State) : Host.Outcome State Fault Refusal := .next (crcOperation mbCrcInit okResult s)

/-- `MBC.CRCBYTE` (R184). -/
def execMbcCrcbyte (b : Byte) (s : State) : Host.Outcome State Fault Refusal :=
  .next (crcOperation (crcStep s.mbc.crc b) okResult s)

/-- `MBC.CRCRD` (R185). -/
def execMbcCrcrd (s : State) : Host.Outcome State Fault Refusal :=
  .next (crcOperation s.mbc.crc ⟨.ok, .crc s.mbc.crc⟩ s)

end Sys2Proof.Machine
end

