-- ==== Sys2Proof/Machine/Reserved.lean ====
section
/-! DEFINITION. The reserved host codes of spec/30_encoding.md R93: each returns `IllegalOp`, before the `open` bit is
looked at (spec/60_exceptions.md R263), and changes nothing. -/

namespace Sys2Proof.Machine

/-- `opsel[5:4] = 11`: the reserved unit, whatever `opsel[3:0]` is (R93). -/
def execReservedUnit11 (_op : BitVec 4) (s : State) : Host.Outcome State Fault Refusal :=
  .next (raise .reserved .illegalOp s)

/-- `opsel = 00 0110` (R93). -/
def execReserved000110 (s : State) : Host.Outcome State Fault Refusal := .next (raise .csf .illegalOp s)

/-- `opsel = 00 0111` (R93). -/
def execReserved000111 (s : State) : Host.Outcome State Fault Refusal := .next (raise .csf .illegalOp s)

/-- `opsel = 00 1000` (R93). -/
def execReserved001000 (s : State) : Host.Outcome State Fault Refusal := .next (raise .csf .illegalOp s)

/-- `opsel = 00 1001` (R93). -/
def execReserved001001 (s : State) : Host.Outcome State Fault Refusal := .next (raise .csf .illegalOp s)

/-- `opsel = 00 1010` (R93). -/
def execReserved001010 (s : State) : Host.Outcome State Fault Refusal := .next (raise .csf .illegalOp s)

/-- `opsel = 00 1011` (R93). -/
def execReserved001011 (s : State) : Host.Outcome State Fault Refusal := .next (raise .csf .illegalOp s)

/-- `opsel = 00 1100` (R93). -/
def execReserved001100 (s : State) : Host.Outcome State Fault Refusal := .next (raise .csf .illegalOp s)

/-- `opsel = 00 1101` (R93). -/
def execReserved001101 (s : State) : Host.Outcome State Fault Refusal := .next (raise .csf .illegalOp s)

/-- `opsel = 00 1110` (R93). -/
def execReserved001110 (s : State) : Host.Outcome State Fault Refusal := .next (raise .csf .illegalOp s)

/-- `opsel = 00 1111` (R93). -/
def execReserved001111 (s : State) : Host.Outcome State Fault Refusal := .next (raise .csf .illegalOp s)

/-- `opsel = 01 1000` (R93). -/
def execReserved011000 (s : State) : Host.Outcome State Fault Refusal := .next (raise .ffc .illegalOp s)

/-- `opsel = 01 1001` (R93). -/
def execReserved011001 (s : State) : Host.Outcome State Fault Refusal := .next (raise .ffc .illegalOp s)

/-- `opsel = 01 1010` (R93). -/
def execReserved011010 (s : State) : Host.Outcome State Fault Refusal := .next (raise .ffc .illegalOp s)

/-- `opsel = 01 1011` (R93). -/
def execReserved011011 (s : State) : Host.Outcome State Fault Refusal := .next (raise .ffc .illegalOp s)

/-- `opsel = 01 1100` (R93). -/
def execReserved011100 (s : State) : Host.Outcome State Fault Refusal := .next (raise .ffc .illegalOp s)

/-- `opsel = 01 1101` (R93). -/
def execReserved011101 (s : State) : Host.Outcome State Fault Refusal := .next (raise .ffc .illegalOp s)

/-- `opsel = 01 1110` (R93). -/
def execReserved011110 (s : State) : Host.Outcome State Fault Refusal := .next (raise .ffc .illegalOp s)

/-- `opsel = 01 1111` (R93). -/
def execReserved011111 (s : State) : Host.Outcome State Fault Refusal := .next (raise .ffc .illegalOp s)

/-- `opsel = 10 0100` (R93). -/
def execReserved100100 (s : State) : Host.Outcome State Fault Refusal := .next (raise .mbc .illegalOp s)

/-- `opsel = 10 0110` (R93). -/
def execReserved100110 (s : State) : Host.Outcome State Fault Refusal := .next (raise .mbc .illegalOp s)

/-- `opsel = 10 0111` (R93). -/
def execReserved100111 (s : State) : Host.Outcome State Fault Refusal := .next (raise .mbc .illegalOp s)

/-- `opsel = 10 1011` (R93). -/
def execReserved101011 (s : State) : Host.Outcome State Fault Refusal := .next (raise .mbc .illegalOp s)

/-- `opsel = 10 1100` (R93). -/
def execReserved101100 (s : State) : Host.Outcome State Fault Refusal := .next (raise .mbc .illegalOp s)

/-- `opsel = 10 1101` (R93). -/
def execReserved101101 (s : State) : Host.Outcome State Fault Refusal := .next (raise .mbc .illegalOp s)

/-- `opsel = 10 1110` (R93). -/
def execReserved101110 (s : State) : Host.Outcome State Fault Refusal := .next (raise .mbc .illegalOp s)

/-- `opsel = 10 1111` (R93). -/
def execReserved101111 (s : State) : Host.Outcome State Fault Refusal := .next (raise .mbc .illegalOp s)

end Sys2Proof.Machine
end

