-- ==== Sys2Proof/Machine/Wire.lean ====
section
/-! DEFINITION. The wire-format rows of the opcode table (spec/30_encoding.md R80 to R88): one frame of the format
crosses the link. A received frame reaches its unit as the bytes the link reader gives it, by the unit's own push or
receive operation; a transmitted frame leaves by the operation that builds it (log entry 9). -/

namespace Sys2Proof.Machine

/-- The bytes of a response reach unit MBC one by one, in wire order (43_host_sequences R228). -/
def mbcRxAll (bs : List Byte) (s : State) : State := bs.foldl (fun t b => mbcRx b t) s

/-- The unit on whose link frames of a format travel (R80 to R88). -/
def formatUnit : WireFormat → UnitId
  | .csfFrame => .csf
  | .ffcCmdframe | .ffcSample | .ffcAuxEnter | .ffcAuxExit | .ffcAuxSuspend | .ffcAuxResume => .ffc
  | .mbcRequest | .mbcRespRead | .mbcRespWrite | .mbcRespException => .mbc

/-- Bytes arrive on the link of a unit and its link reader hands them over: one push to a unit with a queue
(40_csf_framer R131, 41_ffc_codec R157), one `MBC.RX` for each byte to unit MBC. The bytes are not inspected. -/
def receiveBytes (u : UnitId) (bs : List Byte) (s : State) : State :=
  match u with
  | .csf => csfPush bs s
  | .ffc => ffcPush bs s
  | .mbc => mbcRxAll bs s
  | .reserved => s

/-- A CSF frame on the tooling-board link (R80): received as one burst (40_csf_framer R131) or transmitted (R133). -/
def execWireCsfFrame (dir : Direction) (cmd : Byte) (payload : List Byte) (s : State) :
    Host.Outcome State Fault Refusal :=
  match dir with
  | .receive => .next (receiveBytes .csf (csfFrameBytes cmd payload) s)
  | .transmit => .next (csfEncode cmd payload s)

/-- A command frame on the sensor link (R83): received as one burst (41_ffc_codec R157), its `LEN` and trailer any
bytes, or transmitted (R160), its `LEN` `0x08` and its trailer the parameter. -/
def execWireFfcCmdframe (dir : Direction) (cmd : Byte) (addr : Half) (value : Byte) (fixed : FixedBytes) (s : State) :
    Host.Outcome State Fault Refusal :=
  match dir with
  | .receive => .next (receiveBytes .ffc (ffcFrameBytes cmd addr value fixed) s)
  | .transmit => .next (ffcEncode cmd addr value s)

/-- A telemetry sample received on the sensor link (R84, 41_ffc_codec R157). -/
def execWireFfcSample (raw : Half) (s : State) : Host.Outcome State Fault Refusal :=
  .next (receiveBytes .ffc (sampleBytes raw) s)

/-- The auxiliary frame "enter programming mode" transmitted (R85, 41_ffc_codec R161). -/
def execWireFfcAuxEnter (s : State) : Host.Outcome State Fault Refusal := .next (ffcAux 0 s)

/-- The auxiliary frame "exit programming mode" transmitted (R85, R161). -/
def execWireFfcAuxExit (s : State) : Host.Outcome State Fault Refusal := .next (ffcAux 1 s)

/-- The auxiliary frame "suspend telemetry" transmitted (R85, R161). -/
def execWireFfcAuxSuspend (s : State) : Host.Outcome State Fault Refusal := .next (ffcAux 2 s)

/-- The auxiliary frame "resume telemetry" transmitted (R85, R161). -/
def execWireFfcAuxResume (s : State) : Host.Outcome State Fault Refusal := .next (ffcAux 3 s)

/-- A request transmitted on the chamber link (R87, 42_mbc_crc16 R186). -/
def execWireMbcRequest (slave : Byte) (kind : ReqKind) (addr data : Half) (s : State) :
    Host.Outcome State Fault Refusal :=
  .next (mbcReq slave (kindCode kind) addr data s)

/-- A read response received on the chamber link (R88, 42_mbc_crc16 R191). -/
def execWireMbcRespRead (slave : Byte) (func : BitVec 7) (data : List Byte) (s : State) :
    Host.Outcome State Fault Refusal :=
  .next (receiveBytes .mbc (mbcReadBytes slave func data) s)

/-- A write response received on the chamber link (R88, R191). -/
def execWireMbcRespWrite (slave : Byte) (func : BitVec 7) (addr data : Half) (s : State) :
    Host.Outcome State Fault Refusal :=
  .next (receiveBytes .mbc (mbcWriteBytes slave func addr data) s)

/-- An exception response received on the chamber link (R88, R191). -/
def execWireMbcRespException (slave : Byte) (func : BitVec 7) (code : Byte) (s : State) :
    Host.Outcome State Fault Refusal :=
  .next (receiveBytes .mbc (mbcExceptionBytes slave func code) s)

end Sys2Proof.Machine
end

