-- ==== Sys2Proof/Machine/Dispatch.lean ====
section
/-! DEFINITION. The meaning of every instruction, one arm per constructor. -/

namespace Sys2Proof.Machine

def exec (i : Instr) (s : State) : Host.Outcome State Fault Refusal :=
  match i with
  | .csfOpen => Sys2Proof.Machine.execCsfOpen s
  | .csfClose => Sys2Proof.Machine.execCsfClose s
  | .csfPush bs => Sys2Proof.Machine.execCsfPush bs s
  | .csfDecode fe fc => Sys2Proof.Machine.execCsfDecode fe fc s
  | .csfClear => Sys2Proof.Machine.execCsfClear s
  | .csfEncode cmd payload => Sys2Proof.Machine.execCsfEncode cmd payload s
  | .ffcOpen => Sys2Proof.Machine.execFfcOpen s
  | .ffcClose => Sys2Proof.Machine.execFfcClose s
  | .ffcPush bs => Sys2Proof.Machine.execFfcPush bs s
  | .ffcDecode => Sys2Proof.Machine.execFfcDecode s
  | .ffcClear => Sys2Proof.Machine.execFfcClear s
  | .ffcEncode cmd addr value => Sys2Proof.Machine.execFfcEncode cmd addr value s
  | .ffcAux k => Sys2Proof.Machine.execFfcAux k s
  | .ffcClassify => Sys2Proof.Machine.execFfcClassify s
  | .mbcOpen => Sys2Proof.Machine.execMbcOpen s
  | .mbcClose => Sys2Proof.Machine.execMbcClose s
  | .mbcRx b => Sys2Proof.Machine.execMbcRx b s
  | .mbcTimeout => Sys2Proof.Machine.execMbcTimeout s
  | .mbcReq slave kind addr data => Sys2Proof.Machine.execMbcReq slave kind addr data s
  | .mbcCrcrst => Sys2Proof.Machine.execMbcCrcrst s
  | .mbcCrcbyte b => Sys2Proof.Machine.execMbcCrcbyte b s
  | .mbcCrcrd => Sys2Proof.Machine.execMbcCrcrd s
  | .reservedUnit11 op => Sys2Proof.Machine.execReservedUnit11 op s
  | .reserved000110 => Sys2Proof.Machine.execReserved000110 s
  | .reserved000111 => Sys2Proof.Machine.execReserved000111 s
  | .reserved001000 => Sys2Proof.Machine.execReserved001000 s
  | .reserved001001 => Sys2Proof.Machine.execReserved001001 s
  | .reserved001010 => Sys2Proof.Machine.execReserved001010 s
  | .reserved001011 => Sys2Proof.Machine.execReserved001011 s
  | .reserved001100 => Sys2Proof.Machine.execReserved001100 s
  | .reserved001101 => Sys2Proof.Machine.execReserved001101 s
  | .reserved001110 => Sys2Proof.Machine.execReserved001110 s
  | .reserved001111 => Sys2Proof.Machine.execReserved001111 s
  | .reserved011000 => Sys2Proof.Machine.execReserved011000 s
  | .reserved011001 => Sys2Proof.Machine.execReserved011001 s
  | .reserved011010 => Sys2Proof.Machine.execReserved011010 s
  | .reserved011011 => Sys2Proof.Machine.execReserved011011 s
  | .reserved011100 => Sys2Proof.Machine.execReserved011100 s
  | .reserved011101 => Sys2Proof.Machine.execReserved011101 s
  | .reserved011110 => Sys2Proof.Machine.execReserved011110 s
  | .reserved011111 => Sys2Proof.Machine.execReserved011111 s
  | .reserved100100 => Sys2Proof.Machine.execReserved100100 s
  | .reserved100110 => Sys2Proof.Machine.execReserved100110 s
  | .reserved100111 => Sys2Proof.Machine.execReserved100111 s
  | .reserved101011 => Sys2Proof.Machine.execReserved101011 s
  | .reserved101100 => Sys2Proof.Machine.execReserved101100 s
  | .reserved101101 => Sys2Proof.Machine.execReserved101101 s
  | .reserved101110 => Sys2Proof.Machine.execReserved101110 s
  | .reserved101111 => Sys2Proof.Machine.execReserved101111 s
  | .wireCsfFrame dir cmd payload => Sys2Proof.Machine.execWireCsfFrame dir cmd payload s
  | .wireFfcCmdframe dir cmd addr value fixed => Sys2Proof.Machine.execWireFfcCmdframe dir cmd addr value fixed s
  | .wireFfcSample raw => Sys2Proof.Machine.execWireFfcSample raw s
  | .wireFfcAuxEnter => Sys2Proof.Machine.execWireFfcAuxEnter s
  | .wireFfcAuxExit => Sys2Proof.Machine.execWireFfcAuxExit s
  | .wireFfcAuxSuspend => Sys2Proof.Machine.execWireFfcAuxSuspend s
  | .wireFfcAuxResume => Sys2Proof.Machine.execWireFfcAuxResume s
  | .wireMbcRequest slave kind addr data => Sys2Proof.Machine.execWireMbcRequest slave kind addr data s
  | .wireMbcRespRead slave func data => Sys2Proof.Machine.execWireMbcRespRead slave func data s
  | .wireMbcRespWrite slave func addr data => Sys2Proof.Machine.execWireMbcRespWrite slave func addr data s
  | .wireMbcRespException slave func code => Sys2Proof.Machine.execWireMbcRespException slave func code s

end Sys2Proof.Machine
end

