-- ==== Sys2Proof/Machine/Cycle.lean ====
section
/-! DEFINITION. One step of the machine: reset, or the execution of the accepted operation, or the acceptance of a
waiting one, or waiting (spec/10_state.md R21, spec/20_memory.md R67, spec/60_exceptions.md R270,
spec/70_reset_and_hazards.md R290, R291). -/

namespace Sys2Proof.Machine

/-- The effect of an item that is no instruction. Bytes of no layout that arrive on a link are received all the same, for
a link carries bytes and a unit inspects none of them on arrival (20_memory R54, 40_csf_framer R131, 41_ffc_codec R157,
42_mbc_crc16 R191). Nothing the block could be asked to do transmits bytes of no layout: such a request answers
`IllegalOp`, as does a code that names no operation (30_encoding R93). Log entry 9. -/
def carryBytes (item : Item) (s : State) : State :=
  match item with
  | .request _ => raise .reserved .illegalOp s
  | .wire format .receive bs => receiveBytes (formatUnit format) bs s
  | .wire format .transmit _ => raise (formatUnit format) .illegalOp s

/-- The execution of an item: it is decoded and its instruction runs, as one atomic operation (10_state R21). -/
def runItem (item : Item) (s : State) : Host.Outcome State Fault Refusal :=
  match decode s.cfg item with
  | .ok i => exec i s
  | .error _ => .next (carryBytes item s)

/-- One step. A configuration that breaks R6 is refused; reset comes between operations (R291); an accepted operation is
executed; otherwise a waiting one is accepted, or the block waits (R290). -/
def cycle (s : State) : Host.Outcome State Fault Refusal :=
  if s.cfg.Ok then
    if s.host.resetPin then .next (resetBlock s)
    else
      match s.host.accepted with
      | some item => runItem item (retire s)
      | none => .next (acceptNext s)
  else .refused .badConfiguration

end Sys2Proof.Machine
end

