-- ==== Sys2Proof/Machine/Step.lean ====
section
/-! DEFINITION. The step function, and the state in which the next step runs a given row of the opcode table. -/

namespace Sys2Proof.Machine

/-- One step of the machine. -/
def step (s : State) : Host.Outcome State Fault Refusal := cycle s

/-- `s` with the row's word in the accept stage, from which the next step takes its instruction, and with no reset in
front of it (log entry 1). A word that is no item leaves `s` as it is. -/
def State.withFetchWord (s : State) (nbits w : Nat) : State :=
  match tableItem nbits w with
  | some item => present item s
  | none => s

end Sys2Proof.Machine
end

