-- ==== Sys2Proof/Machine/HostSequences.lean ====
section
/-! DEFINITION. The host sequences of spec/43_host_sequences.md. They are no part of the block: they are what a host
issues, as lists of operations, or as functions where the host acts on results. What other agents do meanwhile is an
argument (R220, log entry 16). -/

namespace Sys2Proof.Machine

/-! ## Running operations -/

/-- The state after an operation; no meaning faults or refuses. -/
def after (i : Instr) (s : State) : State :=
  match exec i s with
  | .next t => t
  | .fault _ => s
  | .refused _ => s

/-- The state after a sequence of operations. -/
def afterAll (is : List Instr) (s : State) : State := is.foldl (fun t i => after i t) s

/-- The result record delivered last. -/
def lastResult (out : List Delivery) : Option Result :=
  match out.getLast? with
  | some (.result r) => some r
  | some (.event _) => none
  | none => none

/-! ## Sequences without feedback -/

/-- `CSF.RXCHUNK bs` (R221). -/
def csfRxchunk (bs : List Byte) : List Instr := [.csfPush bs, .csfDecode false 0]

/-- `FFC.RXCHUNK bs` (R221). -/
def ffcRxchunk (bs : List Byte) : List Instr := [.ffcPush bs, .ffcDecode]

/-- `EE.WRITE addr, value` (R225). -/
def eeWrite (cfg : Config) (addr : Half) (value : Byte) : List Instr := [.ffcEncode cfg.ffcCmdWrite addr value]

/-- `EE.MODE k` (R227). -/
def eeMode (k : BitVec 2) : List Instr := [.ffcAux k]

/-- `CRC16 bs` (R229). -/
def crc16Sequence (bs : List Byte) : List Instr := .mbcCrcrst :: bs.map .mbcCrcbyte ++ [.mbcCrcrd]

/-! ## `CSF.SEND_WITH_ACK` (R222) -/

/-- The result says `matched = 1`. -/
def saysMatched : Option Result → Bool
  | some ⟨.ok, .decoded m _⟩ => m
  | _ => false

/-- Step 3: one poll for each entry of `others`, which lists what other agents do before that poll. -/
def pollForAck (cmd : Byte) : List (List Instr) → State → Status × State
  | [], s => (.ackTimeout, s)
  | others :: rest, s =>
    let t := after (.csfDecode true cmd) (afterAll others s)
    if saysMatched (lastResult t.csf.out) then (.ok, t) else pollForAck cmd rest t

/-- The whole sequence; `meanwhile` is what other agents do between the clear and the send. -/
def sendWithAck (cmd : Byte) (payload : List Byte) (meanwhile : List Instr) (others : List (List Instr)) (s : State) :
    Status × State :=
  pollForAck cmd others (after (.csfEncode cmd payload) (afterAll meanwhile (after .csfClear s)))

/-! ## `EE.READ` (R226) -/

/-- The value of the first command-frame event for the address. -/
def answerFor (addr : Half) : List Delivery → Option Byte
  | [] => none
  | .event (.cmdFrame _ address value _ _) :: rest => if address = addr then some value else answerFor addr rest
  | _ :: rest => answerFor addr rest

/-- The request, then what the link reader does with the bytes that arrive, then the answer among the events since. -/
def eeRead (addr : Half) (others : List Instr) (s : State) : Option Byte × State :=
  let t := afterAll (.ffcEncode s.cfg.ffcCmdRead addr s.cfg.ffcReadFill :: others) s
  (answerFor addr (t.ffc.out.drop s.ffc.out.length), t)

/-! ## `MB.TRANSACT` (R228) -/

/-- The result says `done = 1`. -/
def saysDone : Option Result → Bool
  | some ⟨_, .complete _⟩ => true
  | _ => false

/-- Steps 2 and 3: the bytes the link delivers, one by one, until the verdict; the host's timeout when they run out. -/
def feedResponse : List Byte → State → Option Result × State
  | [], s => let t := after .mbcTimeout s; (lastResult t.mbc.out, t)
  | b :: rest, s =>
    let t := after (.mbcRx b) s
    if saysDone (lastResult t.mbc.out) then (lastResult t.mbc.out, t) else feedResponse rest t

/-- The whole transaction. -/
def mbTransact (slave : Byte) (kind : ReqKind) (addr data : Half) (bytes : List Byte) (s : State) :
    Option Result × State :=
  feedResponse bytes (after (.mbcReq slave (kindCode kind) addr data) s)

end Sys2Proof.Machine
end

