-- ==== Sys2Proof/Safety.lean ====
section
/-! DEFINITION. What counts as a good state: the invariants of spec/10_state.md R32 over the parameter constraints of
spec/00_scope.md R6, and the terms the statements speak in: the unit of an instruction, the streams, what a push
brings, where a sync stands. -/

namespace Sys2Proof.Machine

/-- The storage is within its bounds (10_state R22, 20_memory R52): the one form every byte sequence keeps. -/
def Memory.wf (s : State) : Bool :=
  decide (withinLimit s.cfg.qdepthCsf s.csf.q.length ∧ withinLimit s.cfg.qdepthFfc s.ffc.q.length ∧
    s.mbc.r.length ≤ s.cfg.rdepthMbc)

/-- A closed unit holds no bytes and no transaction (R32). -/
abbrev closedIsEmpty (s : State) : Prop :=
  (s.csf.isOpen = false → s.csf.q = []) ∧ (s.ffc.isOpen = false → s.ffc.q = []) ∧
  (s.mbc.isOpen = false → s.mbc.r = [] ∧ s.mbc.busy = false)

/-- The function code is one of the three request functions (R32). -/
abbrev isRequestFunc (cfg : Config) (func : Byte) : Prop :=
  func = cfg.mbFcReadHolding ∨ func = cfg.mbFcWriteReg ∨ func = cfg.mbFcWriteCoil

/-- A transaction in progress waits for a response that is not yet complete; without one the buffer is empty (R32). -/
abbrev transactionOk (s : State) : Prop :=
  (s.mbc.busy = false → s.mbc.r = []) ∧
  (s.mbc.busy = true → isRequestFunc s.cfg s.mbc.expFunc ∧
    s.mbc.r.length < mbRequired s.cfg s.mbc.expFunc s.mbc.r)

/-- The invariant of R32, over a configuration that R6 admits. -/
abbrev StateInv (s : State) : Prop :=
  s.cfg.Ok ∧ Memory.wf s = true ∧ closedIsEmpty s ∧ transactionOk s

/-- Every element of the units has the reset value of 10_state R22. -/
abbrev atResetValues (s : State) : Prop :=
  (s.csf.isOpen = false ∧ s.csf.q = []) ∧ (s.ffc.isOpen = false ∧ s.ffc.q = []) ∧
  (s.mbc.isOpen = false ∧ s.mbc.crc = 0xFFFF ∧ s.mbc.busy = false ∧ s.mbc.expSlave = 0x00 ∧ s.mbc.expFunc = 0x00 ∧
    s.mbc.r = [])

/-- The units delivered and transmitted nothing between two states. -/
abbrev sameOutputs (s t : State) : Prop :=
  (t.csf.out = s.csf.out ∧ t.csf.tx = s.csf.tx) ∧ (t.ffc.out = s.ffc.out ∧ t.ffc.tx = s.ffc.tx) ∧
  (t.mbc.out = s.mbc.out ∧ t.mbc.tx = s.mbc.tx)

/-- A step that does not stop the machine. -/
abbrev goesOn (s : State) : Prop := ∃ t, step s = .next t

/-! ## Which unit an instruction belongs to -/

/-- The unit of an instruction (30_encoding R80 to R91, R93). -/
def instrUnit : Instr → UnitId
  | .csfOpen | .csfClose | .csfPush _ | .csfDecode _ _ | .csfClear | .csfEncode _ _ | .reserved000110
  | .reserved000111 | .reserved001000 | .reserved001001 | .reserved001010 | .reserved001011 | .reserved001100
  | .reserved001101 | .reserved001110 | .reserved001111 | .wireCsfFrame _ _ _ => .csf
  | .ffcOpen | .ffcClose | .ffcPush _ | .ffcDecode | .ffcClear | .ffcEncode _ _ _ | .ffcAux _ | .ffcClassify
  | .reserved011000 | .reserved011001 | .reserved011010 | .reserved011011 | .reserved011100 | .reserved011101
  | .reserved011110 | .reserved011111 | .wireFfcCmdframe _ _ _ _ _ | .wireFfcSample _ | .wireFfcAuxEnter
  | .wireFfcAuxExit | .wireFfcAuxSuspend | .wireFfcAuxResume => .ffc
  | .mbcOpen | .mbcClose | .mbcRx _ | .mbcTimeout | .mbcReq _ _ _ _ | .mbcCrcrst | .mbcCrcbyte _ | .mbcCrcrd
  | .reserved100100 | .reserved100110 | .reserved100111 | .reserved101011 | .reserved101100 | .reserved101101
  | .reserved101110 | .reserved101111 | .wireMbcRequest _ _ _ _ | .wireMbcRespRead _ _ _
  | .wireMbcRespWrite _ _ _ _ | .wireMbcRespException _ _ _ => .mbc
  | .reservedUnit11 _ => .reserved

/-- `opsel[5:4]` selects the unit (30_encoding R90). -/
def opselUnit (opsel : BitVec 6) : UnitId :=
  if opsel.extractLsb' 4 2 = 0 then .csf
  else if opsel.extractLsb' 4 2 = 1 then .ffc
  else if opsel.extractLsb' 4 2 = 2 then .mbc
  else .reserved

/-- The unit an item is for. -/
def itemUnit : Item → UnitId
  | .request r => opselUnit r.opsel
  | .wire format _ _ => formatUnit format

/-- An instruction that a request record names: an operation or a reserved code, not a wire format. -/
def isOperation : Instr → Bool
  | .wireCsfFrame _ _ _ | .wireFfcCmdframe _ _ _ _ _ | .wireFfcSample _ | .wireFfcAuxEnter | .wireFfcAuxExit
  | .wireFfcAuxSuspend | .wireFfcAuxResume | .wireMbcRequest _ _ _ _ | .wireMbcRespRead _ _ _
  | .wireMbcRespWrite _ _ _ _ | .wireMbcRespException _ _ _ => false
  | .csfOpen | .csfClose | .csfPush _ | .csfDecode _ _ | .csfClear | .csfEncode _ _ | .ffcOpen | .ffcClose
  | .ffcPush _ | .ffcDecode | .ffcClear | .ffcEncode _ _ _ | .ffcAux _ | .ffcClassify | .mbcOpen | .mbcClose
  | .mbcRx _ | .mbcTimeout | .mbcReq _ _ _ _ | .mbcCrcrst | .mbcCrcbyte _ | .mbcCrcrd | .reservedUnit11 _
  | .reserved000110 | .reserved000111 | .reserved001000 | .reserved001001 | .reserved001010 | .reserved001011
  | .reserved001100 | .reserved001101 | .reserved001110 | .reserved001111 | .reserved011000 | .reserved011001
  | .reserved011010 | .reserved011011 | .reserved011100 | .reserved011101 | .reserved011110 | .reserved011111
  | .reserved100100 | .reserved100110 | .reserved100111 | .reserved101011 | .reserved101100 | .reserved101101
  | .reserved101110 | .reserved101111 => true

/-- The stream a unit delivers to. -/
def outOf (u : UnitId) (s : State) : List Delivery :=
  match u with
  | .csf => s.csf.out
  | .ffc => s.ffc.out
  | .mbc => s.mbc.out
  | .reserved => s.host.out

/-- The state with another delivery stream of a unit. -/
def withOut (u : UnitId) (out : List Delivery) (s : State) : State :=
  match u with
  | .csf => s.setCsf { s.csf with out := out }
  | .ffc => s.setFfc { s.ffc with out := out }
  | .mbc => s.setMbc { s.mbc with out := out }
  | .reserved => s.setHost { s.host with out := out }

/-- How many results an item is answered with: one, but for the bytes of a response, which unit MBC answers one by one
(42_mbc_crc16 R191). -/
def resultsOf : Item → Nat
  | .request _ => 1
  | .wire format .receive bs => if formatUnit format = .mbc then bs.length else 1
  | .wire _ .transmit _ => 1

/-- How many results the waiting items are to be answered with. -/
def waitingResults (p : Pending) : Nat := (allAgents.map fun a => ((waitingAt p a).map resultsOf).sum).sum

/-- A delivery that is a result record. -/
def isResult : Delivery → Bool
  | .result _ => true
  | .event _ => false

/-- How many result records the block has delivered. -/
def resultCount (s : State) : Nat :=
  s.csf.out.countP isResult + s.ffc.out.countP isResult + s.mbc.out.countP isResult + s.host.out.countP isResult

/-- The bytes an instruction brings to `CSF.Q`, if it is one that pushes. -/
def csfPushed : Instr → List Byte
  | .csfPush bs => bs
  | .wireCsfFrame .receive cmd payload => csfFrameBytes cmd payload
  | _ => []

/-- The bytes an instruction brings to `FFC.Q`, if it is one that pushes. -/
def ffcPushed : Instr → List Byte
  | .ffcPush bs => bs
  | .wireFfcCmdframe .receive cmd addr value fixed => ffcFrameBytes cmd addr value fixed
  | .wireFfcSample raw => sampleBytes raw
  | _ => []

/-- The bytes an instruction brings to `MBC.R`, if it is one that receives. -/
def mbcPushed : Instr → List Byte
  | .mbcRx b => [b]
  | .wireMbcRespRead slave func data => mbcReadBytes slave func data
  | .wireMbcRespWrite slave func addr data => mbcWriteBytes slave func addr data
  | .wireMbcRespException slave func code => mbcExceptionBytes slave func code
  | _ => []

/-- `EB 97` stand at index `i` of a queue (40_csf_framer R124, S1). -/
abbrev syncAt (q : List Byte) (i : Nat) : Prop := q[i]? = some csfSync1 ∧ q[i + 1]? = some csfSync2

end Sys2Proof.Machine
end

