-- ==== Sys2Proof/Certificates/Slice0/Obligations.lean ====
section
/-! DEFINITION. The statements about the model, each a formalisation of the rules of spec/ its docstring names. A result
record `⟨status, .none⟩` has no fields: 60_exceptions R250 lists none for `LinkUnavailable`, `IllegalOp`, `QueueFull` and
`MbIdle`, and 93 U23 lets a model give none (log entry 14). -/

open Sys2Proof Sys2Proof.Machine

/-! ## Reset, configuration, steps -/

/-- 70_reset R290, R291: the reset values, in the reset state and after the reset input in any state; nothing is
transmitted or emitted by reset; after reset the block waits. That reset is a step of its own, which lowers the input
and abandons an accepted operation, is the model's choice (log entry 13). -/
def Obligations.ResetGivesTheStatedValues : Prop :=
  (atResetValues State.reset ∧ step State.reset = .next State.reset) ∧
  ∀ s : State, s.cfg.Ok → s.host.resetPin = true →
    ∃ t, step s = .next t ∧ atResetValues t ∧ sameOutputs s t ∧ t.cfg = s.cfg ∧
      t.host.accepted = none ∧ t.host.resetPin = false

/-- 00_scope R6: a configuration that breaks a constraint is refused. -/
def Obligations.BadConfigurationIsRefused : Prop :=
  ∀ s : State,
    ¬ (s.cfg.telemMinRaw ≤ s.cfg.telemMaxRaw ∧
      s.cfg.mbFcReadHolding ≠ s.cfg.mbFcWriteReg ∧ s.cfg.mbFcReadHolding ≠ s.cfg.mbFcWriteCoil ∧
      s.cfg.mbFcWriteReg ≠ s.cfg.mbFcWriteCoil ∧ s.cfg.mbFcReadHolding.getLsbD 7 = false ∧
      s.cfg.mbFcWriteReg.getLsbD 7 = false ∧ s.cfg.mbFcWriteCoil.getLsbD 7 = false ∧
      (∀ d, s.cfg.qdepthCsf = some d → 260 ≤ d) ∧ (∀ d, s.cfg.qdepthFfc = some d → 8 ≤ d) ∧
      260 ≤ s.cfg.rdepthMbc) →
    step s = .refused .badConfiguration

/-- 10_state R21, 20_memory R67: the step at a state with an accepted item that decodes to an instruction is that
instruction's execution, the item having left the accept stage (the model's, log entry 3). -/
def Obligations.StepRunsTheDecodedInstruction : Prop :=
  ∀ (s : State) (item : Item) (i : Instr), s.cfg.Ok → s.host.resetPin = false → s.host.accepted = some item →
    decode s.cfg item = .ok i → step s = exec i { s with host := { s.host with accepted := none } }

/-- 60_exceptions R270: what a step accepts is the oldest request of some agent; the other agents' requests and the units
stay as they are. That accepting is a step of its own is the model's choice (log entries 1 to 3). -/
def Obligations.StepAcceptsTheOldestRequestOfAnAgent : Prop :=
  ∀ s : State, s.cfg.Ok → s.host.resetPin = false → s.host.accepted = none → 0 < waitingCount s.host.pending →
    ∃ (a : Agent) (item : Item) (rest : List Item) (t : State),
      waitingAt s.host.pending a = item :: rest ∧ step s = .next t ∧ t.host.accepted = some item ∧
      waitingAt t.host.pending a = rest ∧
      (∀ b, b ≠ a → waitingAt t.host.pending b = waitingAt s.host.pending b) ∧
      t.cfg = s.cfg ∧ t.csf = s.csf ∧ t.ffc = s.ffc ∧ t.mbc = s.mbc ∧ t.host.out = s.host.out ∧
      t.host.resetPin = false

/-- 60_exceptions R270: every requested operation is executed; from any state with `n` items waiting, after `2 n` steps
none waits and each has been answered, whatever the arbiter's choices: one result for each item, but for the bytes of a
response, which unit MBC answers one by one. The count of steps and the items that are frames are the model's (log
entries 1 to 3 and 9). -/
def Obligations.EveryRequestedOperationIsExecuted : Prop :=
  ∀ s : State, s.cfg.Ok → s.host.resetPin = false → s.host.accepted = none →
    ∃ t : State, Host.Core.run Sys2Proof.core (2 * waitingCount s.host.pending) s = .next t ∧
      waitingCount t.host.pending = 0 ∧ t.host.accepted = none ∧
      resultCount t = resultCount s + waitingResults s.host.pending

/-- 60_exceptions R259, 20_memory R71: every instruction answers a next state in every state, the parameters are never
written, and the host side is left alone but for the results of the reserved unit (log entry 5). Nothing but a
configuration that breaks 00_scope R6 stops a step. -/
def Obligations.EveryInstructionGoesOn : Prop :=
  (∀ (i : Instr) (s : State), ∃ t, exec i s = .next t ∧ t.cfg = s.cfg ∧ t.host = { s.host with out := t.host.out }) ∧
  ∀ s : State, s.cfg.Ok → goesOn s

/-! ## Unit CSF -/

/-- 40_csf_framer R122, R123: opening and closing. -/
def Obligations.CsfOpenAndCloseEmptyTheQueue : Prop :=
  ∀ s : State,
    exec .csfOpen s = .next { s with csf :=
      { s.csf with isOpen := true, q := [], out := s.csf.out ++ [.result ⟨.ok, .none⟩] } } ∧
    (s.csf.isOpen = true → exec .csfClose s = .next { s with csf :=
      { s.csf with isOpen := false, q := [], out := s.csf.out ++ [.result ⟨.ok, .none⟩] } }) ∧
    (s.csf.isOpen = false → exec .csfClose s = .next { s with csf :=
      { s.csf with out := s.csf.out ++ [.result ⟨.linkUnavailable, .none⟩] } })

/-- 40_csf_framer R131: a push appends all its bytes or none. -/
def Obligations.CsfPushAppendsAllOrNothing : Prop :=
  ∀ (s : State) (bs : List Byte),
    ((bs = [] ∨ ∃ m, s.cfg.burstMax = some m ∧ m < bs.length) → exec (.csfPush bs) s = .next { s with csf :=
      { s.csf with out := s.csf.out ++ [.result ⟨.illegalOp, .none⟩] } }) ∧
    (bs ≠ [] → (∀ m, s.cfg.burstMax = some m → bs.length ≤ m) →
      (s.csf.isOpen = false → exec (.csfPush bs) s = .next { s with csf :=
        { s.csf with out := s.csf.out ++ [.result ⟨.linkUnavailable, .none⟩] } }) ∧
      (s.csf.isOpen = true → (∃ d, s.cfg.qdepthCsf = some d ∧ d < s.csf.q.length + bs.length) →
        exec (.csfPush bs) s = .next { s with csf :=
          { s.csf with out := s.csf.out ++ [.result ⟨.queueFull, .none⟩] } }) ∧
      (s.csf.isOpen = true → (∀ d, s.cfg.qdepthCsf = some d → s.csf.q.length + bs.length ≤ d) →
        exec (.csfPush bs) s = .next { s with csf :=
          { s.csf with q := s.csf.q ++ bs, out := s.csf.out ++ [.result ⟨.ok, .none⟩] } }))

/-- 40_csf_framer R132, 41_ffc_codec R158: clearing a queue of an open unit, without an event. -/
def Obligations.ClearEmptiesTheQueueWithoutEvent : Prop :=
  ∀ s : State,
    (s.csf.isOpen = true → exec .csfClear s = .next { s with csf :=
      { s.csf with q := [], out := s.csf.out ++ [.result ⟨.ok, .none⟩] } }) ∧
    (s.csf.isOpen = false → exec .csfClear s = .next { s with csf :=
      { s.csf with out := s.csf.out ++ [.result ⟨.linkUnavailable, .none⟩] } }) ∧
    (s.ffc.isOpen = true → exec .ffcClear s = .next { s with ffc :=
      { s.ffc with q := [], out := s.ffc.out ++ [.result ⟨.ok, .none⟩] } }) ∧
    (s.ffc.isOpen = false → exec .ffcClear s = .next { s with ffc :=
      { s.ffc with out := s.ffc.out ++ [.result ⟨.linkUnavailable, .none⟩] } })

/-- 40_csf_framer R133, 30_encoding R81: the frame transmitted, its checksum the sum of the preceding bytes modulo 256,
that is of `0x82 + CMD + LEN + Σ VALUE[i]`. -/
def Obligations.CsfEncodeTransmitsTheChecksummedFrame : Prop :=
  ∀ (s : State) (cmd : Byte) (payload : List Byte),
    (255 < payload.length → exec (.csfEncode cmd payload) s = .next { s with csf :=
      { s.csf with out := s.csf.out ++ [.result ⟨.illegalOp, .none⟩] } }) ∧
    (payload.length ≤ 255 → s.csf.isOpen = false → exec (.csfEncode cmd payload) s = .next { s with csf :=
      { s.csf with out := s.csf.out ++ [.result ⟨.linkUnavailable, .none⟩] } }) ∧
    (payload.length ≤ 255 → s.csf.isOpen = true → exec (.csfEncode cmd payload) s = .next { s with csf :=
      { s.csf with
        tx := s.csf.tx ++ ([0xEB, 0x97, cmd, BitVec.ofNat 8 payload.length] ++ payload ++
          [BitVec.ofNat 8 (0x82 + cmd.toNat + payload.length + (payload.map BitVec.toNat).sum)])
        out := s.csf.out ++ [.result ⟨.ok, .none⟩] } })

/-- 40_csf_framer R120, R124: what a decode operation returns is what the pass over the queue finds. -/
def Obligations.CsfDecodeDeliversThePass : Prop :=
  ∀ (s : State) (fe : Bool) (fc : Byte),
    (s.csf.isOpen = false → exec (.csfDecode fe fc) s = .next { s with csf :=
      { s.csf with out := s.csf.out ++ [.result ⟨.linkUnavailable, .none⟩] } }) ∧
    (s.csf.isOpen = true → ∃ m : Bool, exec (.csfDecode fe fc) s = .next { s with csf :=
      { s.csf with
        q := (csfDecodePass s.csf.q).1
        out := s.csf.out ++
          (csfDecodePass s.csf.q).2.map (fun f => .event (.frameReceived f.command f.payload true)) ++
          [.result ⟨.ok, .decoded m (csfDecodePass s.csf.q).2.length⟩] } })

/-- 40_csf_framer R125: without a sync the queue is cleared; otherwise what precedes the sync of lowest index is
discarded and the pass goes on from there. -/
def Obligations.CsfPassScansForTheFirstSync : Prop :=
  ∀ q : List Byte,
    ((∀ i, ¬ syncAt q i) → csfDecodePass q = ([], [])) ∧
    (∀ p, syncAt q p → (∀ j, j < p → ¬ syncAt q j) → csfDecodePass q = csfDecodePass (q.drop p))

/-- 40_csf_framer R126: the two waits consume nothing. -/
def Obligations.CsfPassWaitsForAWholeFrame : Prop :=
  ∀ q : List Byte, syncAt q 0 →
    (q.length < 5 → csfDecodePass q = (q, [])) ∧
    (∀ l, q[3]? = some l → q.length < 5 + l.toNat → csfDecodePass q = (q, []))

/-- 40_csf_framer R127: a frame whose checksum matches is removed and yielded; the pass goes on only when at least five
bytes remain, and otherwise leaves them as they are. -/
def Obligations.CsfPassYieldsACheckedFrame : Prop :=
  ∀ (cmd len chk : Byte) (value rest : List Byte), value.length = len.toNat →
    chk = BitVec.ofNat 8 (0x82 + cmd.toNat + len.toNat + (value.map BitVec.toNat).sum) →
    (5 ≤ rest.length → csfDecodePass ([0xEB, 0x97, cmd, len] ++ value ++ chk :: rest) =
      ((csfDecodePass rest).1, ⟨cmd, value⟩ :: (csfDecodePass rest).2)) ∧
    (rest.length < 5 → csfDecodePass ([0xEB, 0x97, cmd, len] ++ value ++ chk :: rest) = (rest, [⟨cmd, value⟩]))

/-- 40_csf_framer R128: on a mismatch exactly one byte is dropped and the scan starts again, whatever remains. -/
def Obligations.CsfPassDropsOneByteOnAMismatch : Prop :=
  ∀ (cmd len chk : Byte) (value rest : List Byte), value.length = len.toNat →
    chk ≠ BitVec.ofNat 8 (0x82 + cmd.toNat + len.toNat + (value.map BitVec.toNat).sum) →
    csfDecodePass ([0xEB, 0x97, cmd, len] ++ value ++ chk :: rest) =
      csfDecodePass ([0x97, cmd, len] ++ value ++ chk :: rest)

/-- 10_state R33: the shapes a decode pass leaves a queue in, in both units. -/
def Obligations.DecodePassesLeaveTheStatedShapes : Prop :=
  (∀ q : List Byte, let left := (csfDecodePass q).1
    left = [] ∨ (syncAt left 0 ∧ left.length < 5) ∨
    (syncAt left 0 ∧ 5 ≤ left.length ∧ ∃ l, left[3]? = some l ∧ left.length < 5 + l.toNat) ∨
    (1 ≤ left.length ∧ left.length ≤ 4 ∧ (csfDecodePass q).2 ≠ [])) ∧
  ∀ (cfg : Config) (q : List Byte), (ffcDecodePass cfg q).2.2.length ≤ 1

/-- 40_csf_framer R129: a pass over a queue that is full to a legal depth frees at least one byte; the bytes left are the
tail of the queue. -/
def Obligations.CsfPassOnAFullQueueFreesSpace : Prop :=
  ∀ q : List Byte, (csfDecodePass q).1 <:+ q ∧ (260 ≤ q.length → (csfDecodePass q).1.length < q.length)

/-- 40_csf_framer R130: the filter changes nothing but `matched`, which is 1 exactly when the filter is on and some frame
of the pass carries the expected command. -/
def Obligations.CsfFilterChangesOnlyMatched : Prop :=
  ∀ (s : State) (fe : Bool) (fc : Byte), s.csf.isOpen = true →
    ∃ (es : List Event) (m : Bool) (t : State), exec (.csfDecode fe fc) s = .next t ∧
      t.csf.out = s.csf.out ++ (es.map .event ++ [.result ⟨.ok, .decoded m es.length⟩]) ∧
      (m = true ↔ fe = true ∧ ∃ p, .frameReceived fc p true ∈ es) ∧
      ∀ (fe' : Bool) (fc' : Byte), ∃ (m' : Bool) (t' : State), exec (.csfDecode fe' fc') s = .next t' ∧
        t'.csf.q = t.csf.q ∧ t'.csf.out = s.csf.out ++ (es.map .event ++ [.result ⟨.ok, .decoded m' es.length⟩])

/-- 40_csf_framer R124, R133, R134: any stream of encoded frames is decoded to exactly those frames. -/
def Obligations.CsfPassDecodesAnyStreamOfFrames : Prop :=
  ∀ fs : List Frame, (∀ f ∈ fs, f.payload.length ≤ 255) →
    csfDecodePass (fs.flatMap fun f => csfFrameBytes f.command f.payload) = ([], fs)

/-- 40_csf_framer R134: what `CSF.ENCODE` transmits, pushed into an empty queue, is decoded to the frame and nothing
else. -/
def Obligations.CsfEncodeThenDecodeRoundTrip : Prop :=
  ∀ (s : State) (cmd : Byte) (payload : List Byte) (fe : Bool) (fc : Byte), s.cfg.Ok → s.csf.isOpen = true →
    s.csf.q = [] → payload.length ≤ 255 → (∀ m, s.cfg.burstMax = some m → payload.length + 5 ≤ m) →
    ∃ (t u v : State) (sent : List Byte) (m : Bool),
      exec (.csfEncode cmd payload) s = .next t ∧ t.csf.tx = s.csf.tx ++ sent ∧
      exec (.csfPush sent) t = .next u ∧ exec (.csfDecode fe fc) u = .next v ∧ v.csf.q = [] ∧
      v.csf.out = u.csf.out ++ [.event (.frameReceived cmd payload true), .result ⟨.ok, .decoded m 1⟩]

/-- 40_csf_framer R137: garbage without a sync is discarded whole; a whole frame behind it is yielded. -/
def Obligations.CsfGarbageInFrontOfAFrameIsDiscarded : Prop :=
  ∀ garbage : List Byte, (∀ i, ¬ syncAt garbage i) →
    csfDecodePass garbage = ([], []) ∧
    ∀ (cmd : Byte) (payload : List Byte), payload.length ≤ 255 →
      csfDecodePass (garbage ++ csfFrameBytes cmd payload) = ([], [⟨cmd, payload⟩])

/-- 40_csf_framer R138 (a), (b): a frame with one byte other than `LEN` changed, and no sync inside it, is lost alone:
the pass is the one over what follows. -/
def Obligations.CsfOneChangedByteLosesOneFrame : Prop :=
  ∀ (cmd v : Byte) (payload rest : List Byte) (i : Nat), payload.length ≤ 255 → i < payload.length + 5 → i ≠ 3 →
    (csfFrameBytes cmd payload)[i]? ≠ some v →
    (∀ j, 1 ≤ j → ¬ syncAt ((csfFrameBytes cmd payload).set i v) j) →
    (rest = [] ∨ rest[0]? = some csfSync1) →
    csfDecodePass ((csfFrameBytes cmd payload).set i v ++ rest) = csfDecodePass rest

/-- 10_state R31 (a), 70_reset R300: a pass keeps the beginning of a frame from the moment both sync bytes are there, and
loses it before. -/
def Obligations.CsfPartialFrameIsKeptFromTheSecondByteOn : Prop :=
  ∀ (cmd : Byte) (payload : List Byte) (n : Nat), payload.length ≤ 255 → n < payload.length + 5 →
    csfDecodePass ((csfFrameBytes cmd payload).take n) =
      if 2 ≤ n then ((csfFrameBytes cmd payload).take n, []) else ([], [])

/-- 20_memory R64: a second pass directly after one that left the queue empty or beginning with a sync changes nothing
and emits nothing. -/
def Obligations.CsfSecondPassChangesNothing : Prop :=
  ∀ q : List Byte, ((csfDecodePass q).1 = [] ∨ syncAt (csfDecodePass q).1 0) →
    csfDecodePass (csfDecodePass q).1 = ((csfDecodePass q).1, [])

/-! ## Unit FFC -/

/-- 41_ffc_codec R151, R159: opening and closing. -/
def Obligations.FfcOpenAndCloseEmptyTheQueue : Prop :=
  ∀ s : State,
    exec .ffcOpen s = .next { s with ffc :=
      { s.ffc with isOpen := true, q := [], out := s.ffc.out ++ [.result ⟨.ok, .none⟩] } } ∧
    (s.ffc.isOpen = true → exec .ffcClose s = .next { s with ffc :=
      { s.ffc with isOpen := false, q := [], out := s.ffc.out ++ [.result ⟨.ok, .none⟩] } }) ∧
    (s.ffc.isOpen = false → exec .ffcClose s = .next { s with ffc :=
      { s.ffc with out := s.ffc.out ++ [.result ⟨.linkUnavailable, .none⟩] } })

/-- 41_ffc_codec R157: a push appends all its bytes or none. -/
def Obligations.FfcPushAppendsAllOrNothing : Prop :=
  ∀ (s : State) (bs : List Byte),
    ((bs = [] ∨ ∃ m, s.cfg.burstMax = some m ∧ m < bs.length) → exec (.ffcPush bs) s = .next { s with ffc :=
      { s.ffc with out := s.ffc.out ++ [.result ⟨.illegalOp, .none⟩] } }) ∧
    (bs ≠ [] → (∀ m, s.cfg.burstMax = some m → bs.length ≤ m) →
      (s.ffc.isOpen = false → exec (.ffcPush bs) s = .next { s with ffc :=
        { s.ffc with out := s.ffc.out ++ [.result ⟨.linkUnavailable, .none⟩] } }) ∧
      (s.ffc.isOpen = true → (∃ d, s.cfg.qdepthFfc = some d ∧ d < s.ffc.q.length + bs.length) →
        exec (.ffcPush bs) s = .next { s with ffc :=
          { s.ffc with out := s.ffc.out ++ [.result ⟨.queueFull, .none⟩] } }) ∧
      (s.ffc.isOpen = true → (∀ d, s.cfg.qdepthFfc = some d → s.ffc.q.length + bs.length ≤ d) →
        exec (.ffcPush bs) s = .next { s with ffc :=
          { s.ffc with q := s.ffc.q ++ bs, out := s.ffc.out ++ [.result ⟨.ok, .none⟩] } }))

/-- 41_ffc_codec R160, R161: what the two transmitting operations send. -/
def Obligations.FfcTransmitsCommandAndAuxiliaryFrames : Prop :=
  ∀ s : State,
    (s.ffc.isOpen = true →
      (∀ (cmd : Byte) (addr : Half) (value : Byte), exec (.ffcEncode cmd addr value) s = .next { s with ffc :=
        { s.ffc with
          tx := s.ffc.tx ++ [0xAA, 0x55, 0x08, cmd, addr.extractLsb' 8 8, addr.extractLsb' 0 8, value,
            s.cfg.ffcTrailer]
          out := s.ffc.out ++ [.result ⟨.ok, .none⟩] } }) ∧
      (∀ k : BitVec 2, exec (.ffcAux k) s = .next { s with ffc :=
        { s.ffc with
          tx := s.ffc.tx ++ (s.cfg.ffcAux.get k.toFin).toList
          out := s.ffc.out ++ [.result ⟨.ok, .none⟩] } })) ∧
    (s.ffc.isOpen = false →
      (∀ (cmd : Byte) (addr : Half) (value : Byte), exec (.ffcEncode cmd addr value) s = .next { s with ffc :=
        { s.ffc with out := s.ffc.out ++ [.result ⟨.linkUnavailable, .none⟩] } }) ∧
      (∀ k : BitVec 2, exec (.ffcAux k) s = .next { s with ffc :=
        { s.ffc with out := s.ffc.out ++ [.result ⟨.linkUnavailable, .none⟩] } }))

/-- 41_ffc_codec R154, R165: the three tests of the telemetry branch, in their order, on the signed value of the pair. -/
def Obligations.FfcSampleTestsInOrder : Prop :=
  ∀ (cfg : Config) (h l : Byte), ∃ raw : Int,
    (raw = if 256 * h.toNat + l.toNat < 32768 then (256 * h.toNat + l.toNat : Int)
      else 256 * h.toNat + l.toNat - 65536) ∧
    sampleEvents cfg h l =
      if h = 0xFE ∧ l = 0xFE then []
      else if raw < cfg.telemMinRaw ∨ cfg.telemMaxRaw < raw then [.telemOutOfRange raw]
      else [.telemSample raw]

/-- 41_ffc_codec R152, R153: one classify step of an open unit, in its three cases. -/
def Obligations.FfcClassifyTakesOneUnit : Prop :=
  ∀ s : State, s.ffc.isOpen = true →
    (∀ (lenByte cmd ah al value trailer : Byte) (rest : List Byte),
      s.ffc.q = [0xAA, 0x55, lenByte, cmd, ah, al, value, trailer] ++ rest →
      exec .ffcClassify s = .next { s with ffc :=
        { s.ffc with
          q := rest
          out := s.ffc.out ++
            [.event (.cmdFrame cmd ((ah.setWidth 16 <<< 8) ||| al.setWidth 16) value lenByte trailer),
              .result ⟨.ok, .consumed 8⟩] } }) ∧
    (∀ (h l : Byte) (rest : List Byte), s.ffc.q = h :: l :: rest →
      ¬ (h = 0xAA ∧ l = 0x55 ∧ 6 ≤ rest.length) →
      exec .ffcClassify s = .next { s with ffc :=
        { s.ffc with
          q := rest
          out := s.ffc.out ++ ((sampleEvents s.cfg h l).map .event ++ [.result ⟨.ok, .consumed 2⟩]) } }) ∧
    (s.ffc.q.length ≤ 1 → exec .ffcClassify s = .next { s with ffc :=
      { s.ffc with out := s.ffc.out ++ [.result ⟨.ok, .consumed 0⟩] } })

/-- 41_ffc_codec R156: the decode pass is the classify step repeated while two bytes remain; its events come in queue
order and `nunits` counts the steps. -/
def Obligations.FfcDecodeRepeatsTheClassifyStep : Prop :=
  (∀ (cfg : Config) (q : List Byte),
    (q.length < 2 → ffcDecodePass cfg q = (0, [], q)) ∧
    (2 ≤ q.length → ffcDecodePass cfg q =
      ((ffcDecodePass cfg (classifyQueue cfg q).q).1 + 1,
        (classifyQueue cfg q).events ++ (ffcDecodePass cfg (classifyQueue cfg q).q).2.1,
        (ffcDecodePass cfg (classifyQueue cfg q).q).2.2))) ∧
  ∀ s : State,
    (s.ffc.isOpen = true → exec .ffcDecode s = .next { s with ffc :=
      { s.ffc with
        q := (ffcDecodePass s.cfg s.ffc.q).2.2
        out := s.ffc.out ++ ((ffcDecodePass s.cfg s.ffc.q).2.1.map .event ++
          [.result ⟨.ok, .units (ffcDecodePass s.cfg s.ffc.q).1⟩]) } }) ∧
    (s.ffc.isOpen = false → exec .ffcDecode s = .next { s with ffc :=
      { s.ffc with out := s.ffc.out ++ [.result ⟨.linkUnavailable, .none⟩] } })

/-- 41_ffc_codec R152, R156, 30_encoding R83: a stream of whole units, command frames with any `LEN` and trailer and
sample pairs other than the sync pair, is taken apart into exactly those units. -/
def Obligations.FfcPassDecodesAnyStreamOfWholeUnits : Prop :=
  ∀ (cfg : Config) (us : List (List Byte × List Event)),
    (∀ u ∈ us,
      (∃ (cmd value lenByte trailer : Byte) (addr : Half),
        u = (ffcFrameBytes cmd addr value ⟨lenByte, trailer⟩, [.cmdFrame cmd addr value lenByte trailer])) ∨
      (∃ h l : Byte, ¬ (h = 0xAA ∧ l = 0x55) ∧ u = ([h, l], sampleEvents cfg h l))) →
    ffcDecodePass cfg (us.flatMap Prod.fst) = (us.length, us.flatMap Prod.snd, [])

/-- 41_ffc_codec R163: what `FFC.ENCODE` transmits, pushed into an empty queue, is classified as that frame. -/
def Obligations.FfcEncodeThenClassifyRoundTrip : Prop :=
  ∀ (s : State) (cmd value : Byte) (addr : Half), s.cfg.Ok → s.ffc.isOpen = true → s.ffc.q = [] →
    (∀ m, s.cfg.burstMax = some m → 8 ≤ m) →
    ∃ (t u v : State) (sent : List Byte),
      exec (.ffcEncode cmd addr value) s = .next t ∧ t.ffc.tx = s.ffc.tx ++ sent ∧
      exec (.ffcPush sent) t = .next u ∧ exec .ffcClassify u = .next v ∧ v.ffc.q = [] ∧
      v.ffc.out = u.ffc.out ++
        [.event (.cmdFrame cmd addr value 0x08 s.cfg.ffcTrailer), .result ⟨.ok, .consumed 8⟩]

/-- 41_ffc_codec R166, R162: in the standard configuration, with at least two bytes and no whole command frame at the
head, two bytes are consumed, and a sample is emitted exactly when the pair is not `FE FE` and -960 ≤ raw ≤ 1600; the
sync pair with fewer than eight bytes buffered is out of range. -/
def Obligations.FfcSampleIsEmittedExactlyInBand : Prop :=
  ∀ (h l : Byte) (rest : List Byte), ¬ (h = 0xAA ∧ l = 0x55 ∧ 6 ≤ rest.length) →
    (classifyQueue Config.standard (h :: l :: rest)).consumed = 2 ∧
    (classifyQueue Config.standard (h :: l :: rest)).q = rest ∧
    (∀ raw : Int, .telemSample raw ∈ (classifyQueue Config.standard (h :: l :: rest)).events ↔
      (raw = rawOf h l ∧ ¬ (h = 0xFE ∧ l = 0xFE) ∧ -960 ≤ raw ∧ raw ≤ 1600)) ∧
    (h = 0xAA ∧ l = 0x55 → (classifyQueue Config.standard (h :: l :: rest)).events = [.telemOutOfRange (-21931)])

/-! ## Unit MBC -/

/-- 42_mbc_crc16 R187, R188: opening and closing; the CRC accumulator and the expected fields stay. -/
def Obligations.MbcOpenAndCloseAbandonTheTransaction : Prop :=
  ∀ s : State,
    exec .mbcOpen s = .next { s with mbc :=
      { s.mbc with isOpen := true, busy := false, r := [], out := s.mbc.out ++ [.result ⟨.ok, .none⟩] } } ∧
    (s.mbc.isOpen = true → exec .mbcClose s = .next { s with mbc :=
      { s.mbc with isOpen := false, busy := false, r := [], out := s.mbc.out ++ [.result ⟨.ok, .none⟩] } }) ∧
    (s.mbc.isOpen = false → exec .mbcClose s = .next { s with mbc :=
      { s.mbc with out := s.mbc.out ++ [.result ⟨.linkUnavailable, .none⟩] } })

/-- 42_mbc_crc16 R181 to R185: `CrcStep` is eight rounds of the shift with the polynomial from the accumulator with the
byte XORed in, `CRC16` its fold from `0xFFFF`; the three CRC operations, whether the link is open or closed, and the
accumulator after a reset and the bytes of a sequence. -/
def Obligations.CrcOperationsComputeTheCrc : Prop :=
  (∀ (acc : Half) (b : Byte),
    crcStep acc b = Nat.iterate (fun x : Half => if x[0] then (x >>> 1) ^^^ 0xA001 else x >>> 1) 8
      (acc ^^^ b.setWidth 16)) ∧
  crc16 [] = 0xFFFF ∧ (∀ (bs : List Byte) (b : Byte), crc16 (bs ++ [b]) = crcStep (crc16 bs) b) ∧
  ∀ s : State,
    exec .mbcCrcrst s = .next { s with mbc :=
      { s.mbc with crc := 0xFFFF, out := s.mbc.out ++ [.result ⟨.ok, .none⟩] } } ∧
    (∀ b : Byte, exec (.mbcCrcbyte b) s = .next { s with mbc :=
      { s.mbc with crc := crcStep s.mbc.crc b, out := s.mbc.out ++ [.result ⟨.ok, .none⟩] } }) ∧
    exec .mbcCrcrd s = .next { s with mbc :=
      { s.mbc with out := s.mbc.out ++ [.result ⟨.ok, .crc s.mbc.crc⟩] } } ∧
    (∀ bs : List Byte, (afterAll (crc16Sequence bs) s).mbc.crc = crc16 bs ∧
      lastResult (afterAll (crc16Sequence bs) s).mbc.out = some ⟨.ok, .crc (crc16 bs)⟩)

/-- 42_mbc_crc16 R196 (b), for every sequence: a body with its CRC appended, low byte first, has the CRC 0. -/
def Obligations.CrcOfABodyWithItsCrcIsZero : Prop :=
  ∀ body : List Byte, crc16 (withCrc body) = 0

/-- 42_mbc_crc16 R186: the request transmitted and the transaction begun. -/
def Obligations.MbcReqTransmitsAndBeginsATransaction : Prop :=
  ∀ (s : State) (slave : Byte) (addr data : Half),
    exec (.mbcReq slave 3 addr data) s = .next { s with mbc :=
      { s.mbc with out := s.mbc.out ++ [.result ⟨.illegalOp, .none⟩] } } ∧
    ∀ (kind : BitVec 2) (func : Byte),
      (kind = 0 ∧ func = s.cfg.mbFcReadHolding) ∨ (kind = 1 ∧ func = s.cfg.mbFcWriteReg) ∨
        (kind = 2 ∧ func = s.cfg.mbFcWriteCoil) →
      (s.mbc.isOpen = false → exec (.mbcReq slave kind addr data) s = .next { s with mbc :=
        { s.mbc with out := s.mbc.out ++ [.result ⟨.linkUnavailable, .none⟩] } }) ∧
      (s.mbc.isOpen = true → ∃ body : List Byte,
        body = [slave, func, addr.extractLsb' 8 8, addr.extractLsb' 0 8, data.extractLsb' 8 8, data.extractLsb' 0 8] ∧
        exec (.mbcReq slave kind addr data) s = .next { s with mbc :=
          { s.mbc with
            expSlave := slave, expFunc := func, r := [], busy := true
            tx := s.mbc.tx ++ (body ++ [(crc16 body).extractLsb' 0 8, (crc16 body).extractLsb' 8 8])
            out := s.mbc.out ++ [.result ⟨.ok, .none⟩] } })

/-- 42_mbc_crc16 R193: the host's timeout. -/
def Obligations.MbcTimeoutEndsTheTransaction : Prop :=
  ∀ s : State,
    (s.mbc.isOpen = false → exec .mbcTimeout s = .next { s with mbc :=
      { s.mbc with out := s.mbc.out ++ [.result ⟨.linkUnavailable, .none⟩] } }) ∧
    (s.mbc.isOpen = true → s.mbc.busy = false → exec .mbcTimeout s = .next { s with mbc :=
      { s.mbc with out := s.mbc.out ++ [.result ⟨.mbIdle, .none⟩] } }) ∧
    (s.mbc.isOpen = true → s.mbc.busy = true → exec .mbcTimeout s = .next { s with mbc :=
      { s.mbc with
        busy := false, r := []
        out := s.mbc.out ++ [.result ⟨.modbusTimeout, .received s.mbc.r.length⟩] } })

/-- 42_mbc_crc16 R191, 60_exceptions R250: one received byte: discarded when no transaction waits, else kept, and when
it completes the response answered by the verdict and the verdict's status. -/
def Obligations.MbcRxCollectsToTheRequiredLength : Prop :=
  ∀ (s : State) (b : Byte),
    (s.mbc.isOpen = false → exec (.mbcRx b) s = .next { s with mbc :=
      { s.mbc with out := s.mbc.out ++ [.result ⟨.linkUnavailable, .none⟩] } }) ∧
    (s.mbc.isOpen = true → s.mbc.busy = false → exec (.mbcRx b) s = .next { s with mbc :=
      { s.mbc with out := s.mbc.out ++ [.result ⟨.mbIdle, .none⟩] } }) ∧
    (s.mbc.isOpen = true → s.mbc.busy = true → ∀ r : List Byte, r = s.mbc.r ++ [b] →
      (3 ≤ r.length ∧ r.length = mbRequired s.cfg s.mbc.expFunc r →
        ∃ (v : Verdict) (status : Status), v = mbCheck s.cfg s.mbc.expSlave s.mbc.expFunc r ∧
          exec (.mbcRx b) s = .next { s with mbc :=
            { s.mbc with
              busy := false, r := [], out := s.mbc.out ++ [.result ⟨status, .complete v⟩] } } ∧
          (∀ crcCalc crcRx, v = .crcError crcCalc crcRx → status = .modbusCrcError) ∧
          (∀ slave, v = .slaveMismatch slave → status = .modbusSlaveMismatch) ∧
          (∀ func code, v = .exception func code → status = .modbusException) ∧
          (∀ func, v = .funcMismatch func → status = .modbusFuncMismatch) ∧
          (∀ slave func bc data, v = .readOk slave func bc data → status = .ok) ∧
          (∀ slave func addr data, v = .writeOk slave func addr data → status = .ok)) ∧
      (¬ (3 ≤ r.length ∧ r.length = mbRequired s.cfg s.mbc.expFunc r) →
        exec (.mbcRx b) s = .next { s with mbc :=
          { s.mbc with r := r, out := s.mbc.out ++ [.result ⟨.ok, .incomplete⟩] } }))

/-- 42_mbc_crc16 R190: the length of the response, by the received function byte and the expected function. -/
def Obligations.MbcResponseLengthIsFixedByTheHeader : Prop :=
  ∀ (cfg : Config) (expFunc b0 b1 b2 : Byte) (more : List Byte), ∃ n : Nat,
    mbRequired cfg expFunc (b0 :: b1 :: b2 :: more) = n ∧ 5 ≤ n ∧ n ≤ 260 ∧
    (128 ≤ b1.toNat → n = 5) ∧
    (b1.toNat < 128 → expFunc = cfg.mbFcReadHolding → n = 5 + b2.toNat) ∧
    (b1.toNat < 128 → expFunc ≠ cfg.mbFcReadHolding → n = 8)

/-- 42_mbc_crc16 R192, 60_exceptions R264: the verdict on a complete response `body ++ [lo, hi]`; the first test that
fails decides. -/
def Obligations.MbcVerdictTestsInOrder : Prop :=
  ∀ (cfg : Config) (expSlave expFunc slave func third lo hi : Byte) (more body : List Byte),
    body = slave :: func :: third :: more →
    mbRequired cfg expFunc (body ++ [lo, hi]) = (body ++ [lo, hi]).length →
    mbCheck cfg expSlave expFunc (body ++ [lo, hi]) =
      if crc16 body ≠ (hi.setWidth 16 <<< 8) ||| lo.setWidth 16 then
        .crcError (crc16 body) ((hi.setWidth 16 <<< 8) ||| lo.setWidth 16)
      else if slave ≠ expSlave then .slaveMismatch slave
      else if 128 ≤ func.toNat then .exception func third
      else if func ≠ expFunc then .funcMismatch func
      else if expFunc = cfg.mbFcReadHolding then .readOk slave func third more
      else .writeOk slave func ((third.setWidth 16 <<< 8) ||| (more.getD 0 0).setWidth 16)
        (((more.getD 1 0).setWidth 16 <<< 8) ||| (more.getD 2 0).setWidth 16)

/-- 42_mbc_crc16 R198: the echo of a write request, fed back byte by byte, is accepted on its eighth byte. -/
def Obligations.MbcWriteRequestEchoIsAccepted : Prop :=
  ∀ (s : State) (slave : Byte) (kind : BitVec 2) (addr data : Half), s.cfg.Ok → s.mbc.isOpen = true →
    kind = 1 ∨ kind = 2 →
    ∃ (t : State) (sent : List Byte), exec (.mbcReq slave kind addr data) s = .next t ∧
      t.mbc.tx = s.mbc.tx ++ sent ∧ sent.length = 8 ∧
      (afterAll (sent.map .mbcRx) t).mbc =
        { t.mbc with
          busy := false, r := []
          out := t.mbc.out ++ (List.replicate 7 (.result ⟨.ok, .incomplete⟩) ++
            [.result ⟨.ok, .complete (.writeOk slave t.mbc.expFunc addr data)⟩]) }

/-! ## Wire formats, reserved codes, failures -/

/-- 30_encoding R88, 42_mbc_crc16 R191, R192 with log entry 9 (the model's reading of the wire-format rows): a whole
response of each layout, received while its transaction waits, is collected to its last byte and gets the verdict its
fields call for. -/
def Obligations.WholeResponsesGetTheirVerdict : Prop :=
  ∀ (s : State) (slave : Byte) (func : BitVec 7), s.cfg.Ok → s.mbc.isOpen = true → s.mbc.busy = true → s.mbc.r = [] →
    s.mbc.expSlave = slave →
    (∀ data : List Byte, data.length ≤ 255 → s.mbc.expFunc = s.cfg.mbFcReadHolding →
      s.mbc.expFunc = (0#1 ++ func : BitVec 8) →
      exec (.wireMbcRespRead slave func data) s = .next { s with mbc :=
        { s.mbc with
          busy := false
          out := s.mbc.out ++ (List.replicate (data.length + 4) (.result ⟨.ok, .incomplete⟩) ++
            [.result ⟨.ok, .complete (.readOk slave s.mbc.expFunc (BitVec.ofNat 8 data.length) data)⟩]) } }) ∧
    (∀ addr data : Half, s.mbc.expFunc ≠ s.cfg.mbFcReadHolding → s.mbc.expFunc = (0#1 ++ func : BitVec 8) →
      exec (.wireMbcRespWrite slave func addr data) s = .next { s with mbc :=
        { s.mbc with
          busy := false
          out := s.mbc.out ++ (List.replicate 7 (.result ⟨.ok, .incomplete⟩) ++
            [.result ⟨.ok, .complete (.writeOk slave s.mbc.expFunc addr data)⟩]) } }) ∧
    (∀ code : Byte,
      exec (.wireMbcRespException slave func code) s = .next { s with mbc :=
        { s.mbc with
          busy := false
          out := s.mbc.out ++ (List.replicate 4 (.result ⟨.ok, .incomplete⟩) ++
            [.result ⟨.modbusException, .complete (.exception (1#1 ++ func) code)⟩]) } })

/-- 30_encoding R80, R83, R84, R85, R87, 40_csf_framer R131, 41_ffc_codec R157 with log entry 9 (the model's reading of
the wire-format rows): a received frame is appended to the queue of its open unit, or refused whole when it breaks
`BURST_MAX` or the depth; a transmitted one leaves on its transmit stream. -/
def Obligations.WireFramesCrossTheLinkOfTheirUnit : Prop :=
  ∀ s : State,
    (s.csf.isOpen = true → ∀ (cmd : Byte) (payload : List Byte), payload.length ≤ 255 →
      exec (.wireCsfFrame .transmit cmd payload) s = .next { s with csf :=
        { s.csf with
          tx := s.csf.tx ++ csfFrameBytes cmd payload, out := s.csf.out ++ [.result ⟨.ok, .none⟩] } }) ∧
    (∀ (i : Instr) (bs : List Byte),
      (∃ cmd payload, payload.length ≤ 255 ∧ i = .wireCsfFrame .receive cmd payload ∧ bs = csfFrameBytes cmd payload) →
      ((∃ m, s.cfg.burstMax = some m ∧ m < bs.length) → exec i s = .next { s with csf :=
        { s.csf with out := s.csf.out ++ [.result ⟨.illegalOp, .none⟩] } }) ∧
      (s.csf.isOpen = true → (∀ m, s.cfg.burstMax = some m → bs.length ≤ m) →
        ((∃ d, s.cfg.qdepthCsf = some d ∧ d < s.csf.q.length + bs.length) → exec i s = .next { s with csf :=
          { s.csf with out := s.csf.out ++ [.result ⟨.queueFull, .none⟩] } }) ∧
        ((∀ d, s.cfg.qdepthCsf = some d → s.csf.q.length + bs.length ≤ d) → exec i s = .next { s with csf :=
          { s.csf with q := s.csf.q ++ bs, out := s.csf.out ++ [.result ⟨.ok, .none⟩] } }))) ∧
    (∀ (i : Instr) (bs : List Byte),
      ((∃ cmd addr value fixed, i = .wireFfcCmdframe .receive cmd addr value fixed ∧
          bs = ffcFrameBytes cmd addr value fixed) ∨
        (∃ raw, i = .wireFfcSample raw ∧ bs = sampleBytes raw)) →
      ((∃ m, s.cfg.burstMax = some m ∧ m < bs.length) → exec i s = .next { s with ffc :=
        { s.ffc with out := s.ffc.out ++ [.result ⟨.illegalOp, .none⟩] } }) ∧
      (s.ffc.isOpen = true → (∀ m, s.cfg.burstMax = some m → bs.length ≤ m) →
        ((∃ d, s.cfg.qdepthFfc = some d ∧ d < s.ffc.q.length + bs.length) → exec i s = .next { s with ffc :=
          { s.ffc with out := s.ffc.out ++ [.result ⟨.queueFull, .none⟩] } }) ∧
        ((∀ d, s.cfg.qdepthFfc = some d → s.ffc.q.length + bs.length ≤ d) → exec i s = .next { s with ffc :=
          { s.ffc with q := s.ffc.q ++ bs, out := s.ffc.out ++ [.result ⟨.ok, .none⟩] } }))) ∧
    (s.ffc.isOpen = true →
      (∀ (cmd value : Byte) (addr : Half) (fixed : FixedBytes),
        exec (.wireFfcCmdframe .transmit cmd addr value fixed) s = .next { s with ffc :=
          { s.ffc with
            tx := s.ffc.tx ++ ffcFrameBytes cmd addr value ⟨0x08, s.cfg.ffcTrailer⟩
            out := s.ffc.out ++ [.result ⟨.ok, .none⟩] } }) ∧
      (∀ (i : Instr) (k : Fin 4),
        (i = .wireFfcAuxEnter ∧ k = 0) ∨ (i = .wireFfcAuxExit ∧ k = 1) ∨ (i = .wireFfcAuxSuspend ∧ k = 2) ∨
          (i = .wireFfcAuxResume ∧ k = 3) →
        exec i s = .next { s with ffc :=
          { s.ffc with
            tx := s.ffc.tx ++ (s.cfg.ffcAux.get k).toList, out := s.ffc.out ++ [.result ⟨.ok, .none⟩] } })) ∧
    (s.mbc.isOpen = true → ∀ (slave : Byte) (kind : ReqKind) (addr data : Half),
      exec (.wireMbcRequest slave kind addr data) s = .next { s with mbc :=
        { s.mbc with
          expSlave := slave, expFunc := funcOfKind s.cfg kind, r := [], busy := true
          tx := s.mbc.tx ++ mbcRequestBytes slave (funcOfKind s.cfg kind) addr data
          out := s.mbc.out ++ [.result ⟨.ok, .none⟩] } })

/-- 30_encoding R93: every reserved code decodes to an instruction of its own that returns `IllegalOp`, changes no state,
emits no event and transmits nothing. Which stream the result of the reserved unit goes to is the model's (log entry
5). -/
def Obligations.ReservedCodesAnswerIllegalOp : Prop :=
  ∀ s : State,
    (∀ p ∈ ([(0b000110, Instr.reserved000110), (0b000111, Instr.reserved000111), (0b001000, Instr.reserved001000),
        (0b001001, Instr.reserved001001), (0b001010, Instr.reserved001010), (0b001011, Instr.reserved001011),
        (0b001100, Instr.reserved001100), (0b001101, Instr.reserved001101), (0b001110, Instr.reserved001110),
        (0b001111, Instr.reserved001111)] : List (BitVec 6 × Instr)),
      (∀ r : Request, r.opsel = p.1 → decode s.cfg (.request r) = .ok p.2) ∧
      exec p.2 s = .next { s with csf := { s.csf with out := s.csf.out ++ [.result ⟨.illegalOp, .none⟩] } }) ∧
    (∀ p ∈ ([(0b011000, Instr.reserved011000), (0b011001, Instr.reserved011001), (0b011010, Instr.reserved011010),
        (0b011011, Instr.reserved011011), (0b011100, Instr.reserved011100), (0b011101, Instr.reserved011101),
        (0b011110, Instr.reserved011110), (0b011111, Instr.reserved011111)] : List (BitVec 6 × Instr)),
      (∀ r : Request, r.opsel = p.1 → decode s.cfg (.request r) = .ok p.2) ∧
      exec p.2 s = .next { s with ffc := { s.ffc with out := s.ffc.out ++ [.result ⟨.illegalOp, .none⟩] } }) ∧
    (∀ p ∈ ([(0b100100, Instr.reserved100100), (0b100110, Instr.reserved100110), (0b100111, Instr.reserved100111),
        (0b101011, Instr.reserved101011), (0b101100, Instr.reserved101100), (0b101101, Instr.reserved101101),
        (0b101110, Instr.reserved101110), (0b101111, Instr.reserved101111)] : List (BitVec 6 × Instr)),
      (∀ r : Request, r.opsel = p.1 → decode s.cfg (.request r) = .ok p.2) ∧
      exec p.2 s = .next { s with mbc := { s.mbc with out := s.mbc.out ++ [.result ⟨.illegalOp, .none⟩] } }) ∧
    ∀ op : BitVec 4,
      (∀ r : Request, r.opsel.extractLsb' 4 2 = 3 → r.opsel.extractLsb' 0 4 = op →
        decode s.cfg (.request r) = .ok (.reservedUnit11 op)) ∧
      exec (.reservedUnit11 op) s = .next { s with host :=
        { s.host with out := s.host.out ++ [.result ⟨.illegalOp, .none⟩] } }

/-- 10_state R24, 60_exceptions R252: a closed unit answers `LinkUnavailable` to every well-formed operation but its
opening and, in unit MBC, the three CRC operations; nothing else changes. With log entry 9 the same holds of a frame
whose burst is allowed, and of each byte of a response; a response that no transaction waits for gets `MbIdle` on each
byte (42_mbc_crc16 R191). -/
def Obligations.ClosedUnitAnswersLinkUnavailable : Prop :=
  ∀ (s : State) (i : Instr), i.wellFormed s.cfg = true →
    (s.csf.isOpen = false →
      (i = .csfClose ∨ i = .csfClear ∨ (∃ bs, i = .csfPush bs) ∨ (∃ fe fc, i = .csfDecode fe fc) ∨
        (∃ cmd payload, i = .csfEncode cmd payload) ∨ (∃ cmd payload, i = .wireCsfFrame .transmit cmd payload) ∨
        (∃ cmd payload, i = .wireCsfFrame .receive cmd payload ∧
          ∀ m, s.cfg.burstMax = some m → payload.length + 5 ≤ m)) →
      exec i s = .next { s with csf := { s.csf with out := s.csf.out ++ [.result ⟨.linkUnavailable, .none⟩] } }) ∧
    (s.ffc.isOpen = false →
      (i = .ffcClose ∨ i = .ffcClear ∨ i = .ffcDecode ∨ i = .ffcClassify ∨ (∃ bs, i = .ffcPush bs) ∨
        (∃ k, i = .ffcAux k) ∨ (∃ cmd addr value, i = .ffcEncode cmd addr value) ∨
        (∃ cmd addr value fixed, i = .wireFfcCmdframe .transmit cmd addr value fixed) ∨
        (∃ cmd addr value fixed, i = .wireFfcCmdframe .receive cmd addr value fixed ∧
          ∀ m, s.cfg.burstMax = some m → 8 ≤ m) ∨
        (∃ raw, i = .wireFfcSample raw ∧ ∀ m, s.cfg.burstMax = some m → 2 ≤ m) ∨
        i ∈ [Instr.wireFfcAuxEnter, .wireFfcAuxExit, .wireFfcAuxSuspend, .wireFfcAuxResume]) →
      exec i s = .next { s with ffc := { s.ffc with out := s.ffc.out ++ [.result ⟨.linkUnavailable, .none⟩] } }) ∧
    (s.mbc.isOpen = false →
      (i = .mbcClose ∨ i = .mbcTimeout ∨ (∃ b, i = .mbcRx b) ∨
        (∃ slave kind addr data, i = .mbcReq slave kind addr data) ∨
        (∃ slave kind addr data, i = .wireMbcRequest slave kind addr data)) →
      exec i s = .next { s with mbc := { s.mbc with out := s.mbc.out ++ [.result ⟨.linkUnavailable, .none⟩] } }) ∧
    ∀ n : Nat,
      (∃ slave func data, i = .wireMbcRespRead slave func data ∧ n = data.length + 5) ∨
        (∃ slave func addr data, i = .wireMbcRespWrite slave func addr data ∧ n = 8) ∨
        (∃ slave func code, i = .wireMbcRespException slave func code ∧ n = 5) →
      (s.mbc.isOpen = false → exec i s = .next { s with mbc :=
        { s.mbc with out := s.mbc.out ++ List.replicate n (.result ⟨.linkUnavailable, .none⟩) } }) ∧
      (s.mbc.isOpen = true → s.mbc.busy = false → exec i s = .next { s with mbc :=
        { s.mbc with out := s.mbc.out ++ List.replicate n (.result ⟨.mbIdle, .none⟩) } })

/-- 00_scope R13, 60_exceptions R250, R251: every operation delivers its events and then exactly one result, to its own
unit's stream (the host's own, for the reserved unit: log entry 5); a `LinkUnavailable`, `IllegalOp`, `QueueFull` or
`MbIdle` comes without an event and changes nothing but that stream; a verdict other than `OK` and `ModbusTimeout`
change what their rules say; the host's status `AckTimeout` never comes. -/
def Obligations.EveryOperationDeliversOneResult : Prop :=
  ∀ (s : State) (i : Instr), isOperation i = true →
    ∃ (es : List Event) (r : Result) (t : State), exec i s = .next t ∧
      outOf (instrUnit i) t = outOf (instrUnit i) s ++ (es.map .event ++ [.result r]) ∧
      r.status ≠ .ackTimeout ∧
      (r.status ∈ [Status.linkUnavailable, .illegalOp, .queueFull, .mbIdle] →
        es = [] ∧ t = withOut (instrUnit i) (outOf (instrUnit i) t) s) ∧
      (r.status ∈ [Status.modbusCrcError, .modbusSlaveMismatch, .modbusException, .modbusFuncMismatch,
          .modbusTimeout] →
        es = [] ∧ t = { s with mbc := { s.mbc with r := [], busy := false, out := t.mbc.out } })

/-- 10_state R20: an instruction reads and writes the state of its own unit alone, beside the static parameters. -/
def Obligations.UnitsAreIndependent : Prop :=
  ∀ (i : Instr) (s s' t t' : State), exec i s = .next t → exec i s' = .next t' → s.cfg = s'.cfg →
    (instrUnit i ≠ .csf → t.csf = s.csf) ∧ (instrUnit i ≠ .ffc → t.ffc = s.ffc) ∧
    (instrUnit i ≠ .mbc → t.mbc = s.mbc) ∧ (instrUnit i ≠ .reserved → t.host = s.host) ∧
    (instrUnit i = .csf → s.csf = s'.csf → t.csf = t'.csf) ∧
    (instrUnit i = .ffc → s.ffc = s'.ffc → t.ffc = t'.ffc) ∧
    (instrUnit i = .mbc → s.mbc = s'.mbc → t.mbc = t'.mbc)

/-! ## Invariants -/

/-- 10_state R32: the invariant holds after reset. -/
def Obligations.ResetStateMeetsTheInvariant : Prop := StateInv State.reset

/-- 10_state R32, over a configuration that 00_scope R6 admits (log entry 6): every step keeps the invariant. -/
def Obligations.EveryStepKeepsTheInvariant : Prop :=
  ∀ s t : State, StateInv s → step s = .next t → StateInv t

/-- 20_memory R51, R63, 00_scope R13: storage is first-in first-out: an instruction leaves a queue or the response buffer
as a tail of what it held, or as what it held with all the bytes it brings appended; the output streams only grow at
their ends. -/
def Obligations.StorageIsFifoAndStreamsOnlyGrow : Prop :=
  ∀ (i : Instr) (s t : State), exec i s = .next t →
    ((t.csf.q <:+ s.csf.q ∨ t.csf.q = s.csf.q ++ csfPushed i) ∧
      (t.ffc.q <:+ s.ffc.q ∨ t.ffc.q = s.ffc.q ++ ffcPushed i) ∧
      (t.mbc.r <:+ s.mbc.r ∨ t.mbc.r = s.mbc.r ++ mbcPushed i)) ∧
    (s.csf.out <+: t.csf.out ∧ s.ffc.out <+: t.ffc.out ∧ s.mbc.out <+: t.mbc.out ∧ s.host.out <+: t.host.out) ∧
    (s.csf.tx <+: t.csf.tx ∧ s.ffc.tx <+: t.ffc.tx ∧ s.mbc.tx <+: t.mbc.tx)

/-! ## Encoding -/

/-- 30_encoding R80 to R93: the decoder reads back every well-formed instruction from what the encoder writes, with every
operand at every value. That a frame of a wire format is an instruction is the model's reading (log entry 9). -/
def Obligations.DecodeOfEncodeIsTheInstruction : Prop :=
  ∀ (cfg : Config) (i : Instr), cfg.Ok → i.wellFormed cfg = true → decode cfg (encode cfg i) = .ok i

/-- 30_encoding R80 to R88: bytes that decode as a frame of a format are the bytes the encoder writes for it, and the
instruction is well formed. -/
def Obligations.DecodedFramesAreEncodedFrames : Prop :=
  ∀ (cfg : Config) (format : WireFormat) (dir : Direction) (bs : List Byte) (i : Instr),
    decode cfg (.wire format dir bs) = .ok i → encode cfg i = .wire format dir bs ∧ i.wellFormed cfg = true

/-- 30_encoding R90, R91, R93: every request record decodes to an operation or a reserved code of the unit `opsel[5:4]`
selects. -/
def Obligations.EveryRequestRecordDecodes : Prop :=
  ∀ (cfg : Config) (r : Request), ∃ i, decode cfg (.request r) = .ok i ∧ isOperation i = true ∧
    instrUnit i = opselUnit r.opsel

/-- 30_encoding R90, R91: the operation each code names, and where its operands stand in the request record. -/
def Obligations.OperationMapSelectsTheOperation : Prop :=
  ∀ (cfg : Config) (r : Request),
    (r.opsel = 0b000000 → decode cfg (.request r) = .ok .csfOpen) ∧
    (r.opsel = 0b000001 → decode cfg (.request r) = .ok .csfClose) ∧
    (r.opsel = 0b000010 → decode cfg (.request r) = .ok (.csfPush r.data)) ∧
    (r.opsel = 0b000011 → decode cfg (.request r) = .ok (.csfDecode (r.c.getLsbD 0) r.a)) ∧
    (r.opsel = 0b000100 → decode cfg (.request r) = .ok .csfClear) ∧
    (r.opsel = 0b000101 → decode cfg (.request r) = .ok (.csfEncode r.a r.data)) ∧
    (r.opsel = 0b010000 → decode cfg (.request r) = .ok .ffcOpen) ∧
    (r.opsel = 0b010001 → decode cfg (.request r) = .ok .ffcClose) ∧
    (r.opsel = 0b010010 → decode cfg (.request r) = .ok (.ffcPush r.data)) ∧
    (r.opsel = 0b010011 → decode cfg (.request r) = .ok .ffcDecode) ∧
    (r.opsel = 0b010100 → decode cfg (.request r) = .ok .ffcClear) ∧
    (r.opsel = 0b010101 → decode cfg (.request r) = .ok (.ffcEncode r.a r.b r.c)) ∧
    (r.opsel = 0b010110 → decode cfg (.request r) = .ok (.ffcAux (r.a.extractLsb' 0 2))) ∧
    (r.opsel = 0b010111 → decode cfg (.request r) = .ok .ffcClassify) ∧
    (r.opsel = 0b100000 → decode cfg (.request r) = .ok .mbcOpen) ∧
    (r.opsel = 0b100001 → decode cfg (.request r) = .ok .mbcClose) ∧
    (r.opsel = 0b100010 → decode cfg (.request r) = .ok (.mbcRx r.a)) ∧
    (r.opsel = 0b100011 → decode cfg (.request r) = .ok .mbcTimeout) ∧
    (r.opsel = 0b100101 → decode cfg (.request r) = .ok (.mbcReq r.a (r.c.extractLsb' 0 2) r.b r.d)) ∧
    (r.opsel = 0b101000 → decode cfg (.request r) = .ok .mbcCrcrst) ∧
    (r.opsel = 0b101001 → decode cfg (.request r) = .ok (.mbcCrcbyte r.a)) ∧
    (r.opsel = 0b101010 → decode cfg (.request r) = .ok .mbcCrcrd)

/-- 30_encoding R90, 93 U20: operand bits an operation does not name are ignored. -/
def Obligations.OperandBitsNotNamedAreIgnored : Prop :=
  ∀ (cfg : Config) (r r' : Request), r.opsel = r'.opsel →
    (r.opsel = 0b000010 ∨ r.opsel = 0b010010 → r.data = r'.data) →
    (r.opsel = 0b000011 → r.a = r'.a ∧ r.c.getLsbD 0 = r'.c.getLsbD 0) →
    (r.opsel = 0b000101 → r.a = r'.a ∧ r.data = r'.data) →
    (r.opsel = 0b010101 → r.a = r'.a ∧ r.b = r'.b ∧ r.c = r'.c) →
    (r.opsel = 0b010110 → r.a.extractLsb' 0 2 = r'.a.extractLsb' 0 2) →
    (r.opsel = 0b100010 ∨ r.opsel = 0b101001 → r.a = r'.a) →
    (r.opsel = 0b100101 → r.a = r'.a ∧ r.c.extractLsb' 0 2 = r'.c.extractLsb' 0 2 ∧ r.b = r'.b ∧ r.d = r'.d) →
    decode cfg (.request r) = decode cfg (.request r')

/-- 95_test_vectors P4, P5, E4 and M5: records and frames the spec writes out decode to the instructions they stand
for. -/
def Obligations.SpecWordsDecode : Prop :=
  decode Config.standard (.request ⟨0b000011, 0x13, 0x01, 0, 0, []⟩) = .ok (.csfDecode true 0x13) ∧
  decode Config.standard (.request ⟨0b010101, 0x02, 0x00, 0x0123, 0, []⟩) = .ok (.ffcEncode 0x02 0x0123 0x00) ∧
  decode Config.standard (.request ⟨0b100101, 0x01, 0x01, 0x0010, 0x09C4, []⟩) =
    .ok (.mbcReq 0x01 1 0x0010 0x09C4) ∧
  decode Config.standard (.request ⟨0b000110, 0, 0, 0, 0, []⟩) = .ok .reserved000110 ∧
  decode Config.standard (.wire .ffcCmdframe .receive [0xAA, 0x55, 0x08, 0x02, 0x01, 0x23, 0x45, 0x0D]) =
    .ok (.wireFfcCmdframe .receive 0x02 0x0123 0x45 ⟨0x08, 0x0D⟩) ∧
  decode Config.standard (.wire .mbcRespWrite .receive [0x01, 0x06, 0x00, 0x10, 0x09, 0xC4, 0x8F, 0xCC]) =
    .ok (.wireMbcRespWrite 0x01 0x06 0x0010 0x09C4)

/-! ## A host sequence -/

/-- 43_host_sequences R222, R234, 70_reset R305, on a link where nothing else happens: an acknowledging frame that
arrives before the last poll gives success; one that the link reader's own pass decodes first, or none, gives
`AckTimeout`. How many polls there are is an argument (log entry 16). -/
def Obligations.SendWithAckDependsOnWhichPassDecodes : Prop :=
  ∀ (s : State) (cmd : Byte) (payload ack : List Byte) (n k : Nat), s.cfg.Ok → s.csf.isOpen = true →
    payload.length ≤ 255 → ack.length ≤ 255 → (∀ m, s.cfg.burstMax = some m → ack.length + 5 ≤ m) →
    (sendWithAck cmd payload [] (List.replicate n [] ++ [[.csfPush (csfFrameBytes cmd ack)]]) s).1 = .ok ∧
    (sendWithAck cmd payload [] (List.replicate n [] ++
      [.csfPush (csfFrameBytes cmd ack), .csfDecode false 0] :: List.replicate k []) s).1 = .ackTimeout ∧
    (sendWithAck cmd payload [] (List.replicate n []) s).1 = .ackTimeout

/-- 43_host_sequences R222, R223, R234: whatever other agents do before the send and before each poll, the transaction
succeeds exactly when some poll finds the unit open and its pass decodes a frame with the command sent; otherwise it
ends in `AckTimeout`. How many polls there are and what is done between them are arguments (log entry 16). -/
def Obligations.SendWithAckSucceedsExactlyWhenAPollDecodesTheCommand : Prop :=
  ∀ (s : State) (cmd : Byte) (payload : List Byte) (meanwhile : List Instr) (others : List (List Instr)),
    let sent := after (.csfEncode cmd payload) (afterAll meanwhile (after .csfClear s))
    let atPoll := fun k : Nat =>
      afterAll ((others.take k).flatMap (fun o => o ++ [.csfDecode true cmd]) ++ others.getD k []) sent
    let status := (sendWithAck cmd payload meanwhile others s).1
    (status = .ok ↔ ∃ k, k < others.length ∧ (atPoll k).csf.isOpen = true ∧
      ∃ f ∈ (csfDecodePass (atPoll k).csf.q).2, f.command = cmd) ∧
    (status = .ok ∨ status = .ackTimeout)

/-! ## Bytes of no layout -/

/-- 40_csf_framer R131, 41_ffc_codec R157, 42_mbc_crc16 R191 with log entry 9: bytes that arrive on a link reach the
link's unit whatever they are, of the format they are presented as or of none, by one push or by one `MBC.RX` each.
Bytes of no layout that are to be transmitted answer `IllegalOp` and change nothing else (the model's choice). -/
def Obligations.ReceivedBytesReachTheirUnit : Prop :=
  ∀ (s r : State) (format : WireFormat) (bs : List Byte), s.cfg.Ok → s.host.resetPin = false →
    r = { s with host := { s.host with accepted := none } } →
    (s.host.accepted = some (.wire format .receive bs) →
      (format = .csfFrame → step s = exec (.csfPush bs) r) ∧
      (format ∈ [WireFormat.ffcCmdframe, .ffcSample, .ffcAuxEnter, .ffcAuxExit, .ffcAuxSuspend, .ffcAuxResume] →
        step s = exec (.ffcPush bs) r) ∧
      (format ∈ [WireFormat.mbcRequest, .mbcRespRead, .mbcRespWrite, .mbcRespException] →
        step s = .next (afterAll (bs.map .mbcRx) r))) ∧
    (s.host.accepted = some (.wire format .transmit bs) → (∀ i, decode s.cfg (.wire format .transmit bs) ≠ .ok i) →
      step s = .next (withOut (formatUnit format) (outOf (formatUnit format) r ++ [.result ⟨.illegalOp, .none⟩]) r))
end

