-- ==== Sys2Proof/Laws/State.lean ====
section
/-! SUPPORT. One lemma per field per update of State. -/

namespace Sys2Proof.Machine

@[simp] theorem setCsf_cfg (s : State) (u : Csf) : (s.setCsf u).cfg = s.cfg := rfl
@[simp] theorem setCsf_csf (s : State) (u : Csf) : (s.setCsf u).csf = u := rfl
@[simp] theorem setCsf_ffc (s : State) (u : Csf) : (s.setCsf u).ffc = s.ffc := rfl
@[simp] theorem setCsf_mbc (s : State) (u : Csf) : (s.setCsf u).mbc = s.mbc := rfl
@[simp] theorem setCsf_host (s : State) (u : Csf) : (s.setCsf u).host = s.host := rfl
@[simp] theorem setCsf_setCsf (s : State) (u v : Csf) : (s.setCsf u).setCsf v = s.setCsf v := rfl
@[simp] theorem setCsf_same (s : State) : s.setCsf s.csf = s := rfl

@[simp] theorem setFfc_cfg (s : State) (u : Ffc) : (s.setFfc u).cfg = s.cfg := rfl
@[simp] theorem setFfc_csf (s : State) (u : Ffc) : (s.setFfc u).csf = s.csf := rfl
@[simp] theorem setFfc_ffc (s : State) (u : Ffc) : (s.setFfc u).ffc = u := rfl
@[simp] theorem setFfc_mbc (s : State) (u : Ffc) : (s.setFfc u).mbc = s.mbc := rfl
@[simp] theorem setFfc_host (s : State) (u : Ffc) : (s.setFfc u).host = s.host := rfl
@[simp] theorem setFfc_setFfc (s : State) (u v : Ffc) : (s.setFfc u).setFfc v = s.setFfc v := rfl
@[simp] theorem setFfc_same (s : State) : s.setFfc s.ffc = s := rfl

@[simp] theorem setMbc_cfg (s : State) (u : Mbc) : (s.setMbc u).cfg = s.cfg := rfl
@[simp] theorem setMbc_csf (s : State) (u : Mbc) : (s.setMbc u).csf = s.csf := rfl
@[simp] theorem setMbc_ffc (s : State) (u : Mbc) : (s.setMbc u).ffc = s.ffc := rfl
@[simp] theorem setMbc_mbc (s : State) (u : Mbc) : (s.setMbc u).mbc = u := rfl
@[simp] theorem setMbc_host (s : State) (u : Mbc) : (s.setMbc u).host = s.host := rfl
@[simp] theorem setMbc_setMbc (s : State) (u v : Mbc) : (s.setMbc u).setMbc v = s.setMbc v := rfl
@[simp] theorem setMbc_same (s : State) : s.setMbc s.mbc = s := rfl

@[simp] theorem setHost_cfg (s : State) (u : HostSide) : (s.setHost u).cfg = s.cfg := rfl
@[simp] theorem setHost_csf (s : State) (u : HostSide) : (s.setHost u).csf = s.csf := rfl
@[simp] theorem setHost_ffc (s : State) (u : HostSide) : (s.setHost u).ffc = s.ffc := rfl
@[simp] theorem setHost_mbc (s : State) (u : HostSide) : (s.setHost u).mbc = s.mbc := rfl
@[simp] theorem setHost_host (s : State) (u : HostSide) : (s.setHost u).host = u := rfl
@[simp] theorem setHost_setHost (s : State) (u v : HostSide) : (s.setHost u).setHost v = s.setHost v := rfl
@[simp] theorem setHost_same (s : State) : s.setHost s.host = s := rfl

@[simp] theorem withOut_csf (s : State) (out : List Delivery) : withOut .csf out s = s.setCsf { s.csf with out := out } := rfl
@[simp] theorem withOut_ffc (s : State) (out : List Delivery) : withOut .ffc out s = s.setFfc { s.ffc with out := out } := rfl
@[simp] theorem withOut_mbc (s : State) (out : List Delivery) : withOut .mbc out s = s.setMbc { s.mbc with out := out } := rfl
@[simp] theorem withOut_reserved (s : State) (out : List Delivery) :
    withOut .reserved out s = s.setHost { s.host with out := out } := rfl
@[simp] theorem withOut_cfg (u : UnitId) (s : State) (out : List Delivery) : (withOut u out s).cfg = s.cfg := by cases u <;> rfl
@[simp] theorem withOut_outOf (u : UnitId) (s : State) (out : List Delivery) : outOf u (withOut u out s) = out := by
  cases u <;> rfl

end Sys2Proof.Machine
end

