-- ==== Sys2Proof/Laws/Exec.lean ====
section
/-! SUPPORT. One equation per arm of `exec`, so that no proof unfolds the dispatch. -/

set_option Elab.async false

namespace Sys2Proof.Machine

@[simp] theorem exec_csfOpen (s : State) : exec (.csfOpen) s = execCsfOpen s := rfl
@[simp] theorem exec_csfClose (s : State) : exec (.csfClose) s = execCsfClose s := rfl
@[simp] theorem exec_csfPush (bs : _) (s : State) : exec (.csfPush bs) s = execCsfPush bs s := rfl
@[simp] theorem exec_csfDecode (fe : _) (fc : _) (s : State) : exec (.csfDecode fe fc) s = execCsfDecode fe fc s := rfl
@[simp] theorem exec_csfClear (s : State) : exec (.csfClear) s = execCsfClear s := rfl
@[simp] theorem exec_csfEncode (cmd : _) (payload : _) (s : State) : exec (.csfEncode cmd payload) s = execCsfEncode cmd payload s := rfl
@[simp] theorem exec_ffcOpen (s : State) : exec (.ffcOpen) s = execFfcOpen s := rfl
@[simp] theorem exec_ffcClose (s : State) : exec (.ffcClose) s = execFfcClose s := rfl
@[simp] theorem exec_ffcPush (bs : _) (s : State) : exec (.ffcPush bs) s = execFfcPush bs s := rfl
@[simp] theorem exec_ffcDecode (s : State) : exec (.ffcDecode) s = execFfcDecode s := rfl
@[simp] theorem exec_ffcClear (s : State) : exec (.ffcClear) s = execFfcClear s := rfl
@[simp] theorem exec_ffcEncode (cmd : _) (addr : _) (value : _) (s : State) : exec (.ffcEncode cmd addr value) s = execFfcEncode cmd addr value s := rfl
@[simp] theorem exec_ffcAux (k : _) (s : State) : exec (.ffcAux k) s = execFfcAux k s := rfl
@[simp] theorem exec_ffcClassify (s : State) : exec (.ffcClassify) s = execFfcClassify s := rfl
@[simp] theorem exec_mbcOpen (s : State) : exec (.mbcOpen) s = execMbcOpen s := rfl
@[simp] theorem exec_mbcClose (s : State) : exec (.mbcClose) s = execMbcClose s := rfl
@[simp] theorem exec_mbcRx (b : _) (s : State) : exec (.mbcRx b) s = execMbcRx b s := rfl
@[simp] theorem exec_mbcTimeout (s : State) : exec (.mbcTimeout) s = execMbcTimeout s := rfl
@[simp] theorem exec_mbcReq (slave : _) (kind : _) (addr : _) (data : _) (s : State) : exec (.mbcReq slave kind addr data) s = execMbcReq slave kind addr data s := rfl
@[simp] theorem exec_mbcCrcrst (s : State) : exec (.mbcCrcrst) s = execMbcCrcrst s := rfl
@[simp] theorem exec_mbcCrcbyte (b : _) (s : State) : exec (.mbcCrcbyte b) s = execMbcCrcbyte b s := rfl
@[simp] theorem exec_mbcCrcrd (s : State) : exec (.mbcCrcrd) s = execMbcCrcrd s := rfl
@[simp] theorem exec_reservedUnit11 (op : _) (s : State) : exec (.reservedUnit11 op) s = execReservedUnit11 op s := rfl
@[simp] theorem exec_reserved000110 (s : State) : exec (.reserved000110) s = execReserved000110 s := rfl
@[simp] theorem exec_reserved000111 (s : State) : exec (.reserved000111) s = execReserved000111 s := rfl
@[simp] theorem exec_reserved001000 (s : State) : exec (.reserved001000) s = execReserved001000 s := rfl
@[simp] theorem exec_reserved001001 (s : State) : exec (.reserved001001) s = execReserved001001 s := rfl
@[simp] theorem exec_reserved001010 (s : State) : exec (.reserved001010) s = execReserved001010 s := rfl
@[simp] theorem exec_reserved001011 (s : State) : exec (.reserved001011) s = execReserved001011 s := rfl
@[simp] theorem exec_reserved001100 (s : State) : exec (.reserved001100) s = execReserved001100 s := rfl
@[simp] theorem exec_reserved001101 (s : State) : exec (.reserved001101) s = execReserved001101 s := rfl
@[simp] theorem exec_reserved001110 (s : State) : exec (.reserved001110) s = execReserved001110 s := rfl
@[simp] theorem exec_reserved001111 (s : State) : exec (.reserved001111) s = execReserved001111 s := rfl
@[simp] theorem exec_reserved011000 (s : State) : exec (.reserved011000) s = execReserved011000 s := rfl
@[simp] theorem exec_reserved011001 (s : State) : exec (.reserved011001) s = execReserved011001 s := rfl
@[simp] theorem exec_reserved011010 (s : State) : exec (.reserved011010) s = execReserved011010 s := rfl
@[simp] theorem exec_reserved011011 (s : State) : exec (.reserved011011) s = execReserved011011 s := rfl
@[simp] theorem exec_reserved011100 (s : State) : exec (.reserved011100) s = execReserved011100 s := rfl
@[simp] theorem exec_reserved011101 (s : State) : exec (.reserved011101) s = execReserved011101 s := rfl
@[simp] theorem exec_reserved011110 (s : State) : exec (.reserved011110) s = execReserved011110 s := rfl
@[simp] theorem exec_reserved011111 (s : State) : exec (.reserved011111) s = execReserved011111 s := rfl
@[simp] theorem exec_reserved100100 (s : State) : exec (.reserved100100) s = execReserved100100 s := rfl
@[simp] theorem exec_reserved100110 (s : State) : exec (.reserved100110) s = execReserved100110 s := rfl
@[simp] theorem exec_reserved100111 (s : State) : exec (.reserved100111) s = execReserved100111 s := rfl
@[simp] theorem exec_reserved101011 (s : State) : exec (.reserved101011) s = execReserved101011 s := rfl
@[simp] theorem exec_reserved101100 (s : State) : exec (.reserved101100) s = execReserved101100 s := rfl
@[simp] theorem exec_reserved101101 (s : State) : exec (.reserved101101) s = execReserved101101 s := rfl
@[simp] theorem exec_reserved101110 (s : State) : exec (.reserved101110) s = execReserved101110 s := rfl
@[simp] theorem exec_reserved101111 (s : State) : exec (.reserved101111) s = execReserved101111 s := rfl
@[simp] theorem exec_wireCsfFrame (dir : _) (cmd : _) (payload : _) (s : State) : exec (.wireCsfFrame dir cmd payload) s = execWireCsfFrame dir cmd payload s := rfl
@[simp] theorem exec_wireFfcCmdframe (dir : _) (cmd : _) (addr : _) (value : _) (fixed : _) (s : State) : exec (.wireFfcCmdframe dir cmd addr value fixed) s = execWireFfcCmdframe dir cmd addr value fixed s := rfl
@[simp] theorem exec_wireFfcSample (raw : _) (s : State) : exec (.wireFfcSample raw) s = execWireFfcSample raw s := rfl
@[simp] theorem exec_wireFfcAuxEnter (s : State) : exec (.wireFfcAuxEnter) s = execWireFfcAuxEnter s := rfl
@[simp] theorem exec_wireFfcAuxExit (s : State) : exec (.wireFfcAuxExit) s = execWireFfcAuxExit s := rfl
@[simp] theorem exec_wireFfcAuxSuspend (s : State) : exec (.wireFfcAuxSuspend) s = execWireFfcAuxSuspend s := rfl
@[simp] theorem exec_wireFfcAuxResume (s : State) : exec (.wireFfcAuxResume) s = execWireFfcAuxResume s := rfl
@[simp] theorem exec_wireMbcRequest (slave : _) (kind : _) (addr : _) (data : _) (s : State) : exec (.wireMbcRequest slave kind addr data) s = execWireMbcRequest slave kind addr data s := rfl
@[simp] theorem exec_wireMbcRespRead (slave : _) (func : _) (data : _) (s : State) : exec (.wireMbcRespRead slave func data) s = execWireMbcRespRead slave func data s := rfl
@[simp] theorem exec_wireMbcRespWrite (slave : _) (func : _) (addr : _) (data : _) (s : State) : exec (.wireMbcRespWrite slave func addr data) s = execWireMbcRespWrite slave func addr data s := rfl
@[simp] theorem exec_wireMbcRespException (slave : _) (func : _) (code : _) (s : State) : exec (.wireMbcRespException slave func code) s = execWireMbcRespException slave func code s := rfl

end Sys2Proof.Machine
end

