-- ==== Sys2Proof/Laws/Ops.lean ====
section
/-! SUPPORT. What each shared operation can do, said once. -/

namespace Sys2Proof.Machine

/-! ## Deliveries -/

@[simp] theorem deliveries_nil (r : Result) : deliveries [] r = [.result r] := rfl

theorem deliveries_eq (es : List Event) (r : Result) : deliveries es r = es.map .event ++ [.result r] := rfl

@[simp] theorem deliver_csf (es : List Event) (r : Result) (s : State) :
    deliver .csf es r s = s.setCsf { s.csf with out := s.csf.out ++ deliveries es r } := rfl

@[simp] theorem deliver_ffc (es : List Event) (r : Result) (s : State) :
    deliver .ffc es r s = s.setFfc { s.ffc with out := s.ffc.out ++ deliveries es r } := rfl

@[simp] theorem deliver_mbc (es : List Event) (r : Result) (s : State) :
    deliver .mbc es r s = s.setMbc { s.mbc with out := s.mbc.out ++ deliveries es r } := rfl

@[simp] theorem deliver_reserved (es : List Event) (r : Result) (s : State) :
    deliver .reserved es r s = s.setHost { s.host with out := s.host.out ++ deliveries es r } := rfl

@[simp] theorem deliver_cfg (u : UnitId) (es : List Event) (r : Result) (s : State) :
    (deliver u es r s).cfg = s.cfg := by cases u <;> rfl

theorem deliver_out (u : UnitId) (es : List Event) (r : Result) (s : State) :
    outOf u (deliver u es r s) = outOf u s ++ (es.map .event ++ [.result r]) := by cases u <;> rfl

@[simp] theorem transmit_csf (bs : List Byte) (s : State) :
    transmit .csf bs s = s.setCsf { s.csf with tx := s.csf.tx ++ bs } := rfl

@[simp] theorem transmit_ffc (bs : List Byte) (s : State) :
    transmit .ffc bs s = s.setFfc { s.ffc with tx := s.ffc.tx ++ bs } := rfl

@[simp] theorem transmit_mbc (bs : List Byte) (s : State) :
    transmit .mbc bs s = s.setMbc { s.mbc with tx := s.mbc.tx ++ bs } := rfl

/-! ## The tests every operation makes first -/

@[simp] theorem isOpen_csf (s : State) : isOpen .csf s = s.csf.isOpen := rfl
@[simp] theorem isOpen_ffc (s : State) : isOpen .ffc s = s.ffc.isOpen := rfl
@[simp] theorem isOpen_mbc (s : State) : isOpen .mbc s = s.mbc.isOpen := rfl

theorem guarded_illegal (u : UnitId) (body : State → State) (s : State) :
    guarded u false body s = raise u .illegalOp s := rfl

theorem guarded_closed (u : UnitId) (body : State → State) (s : State) (h : isOpen u s = false) :
    guarded u true body s = raise u .linkUnavailable s := by simp [guarded, h]

theorem guarded_open (u : UnitId) (body : State → State) (s : State) (h : isOpen u s = true) :
    guarded u true body s = body s := by simp [guarded, h]

/-- A guarded operation raises `IllegalOp`, or raises `LinkUnavailable`, or does its own work. -/
theorem guarded_cases (u : UnitId) (legal : Bool) (body : State → State) (s : State) :
    (legal = false ∧ guarded u legal body s = raise u .illegalOp s) ∨
    (legal = true ∧ isOpen u s = false ∧ guarded u legal body s = raise u .linkUnavailable s) ∨
    (legal = true ∧ isOpen u s = true ∧ guarded u legal body s = body s) := by
  cases legal
  · exact .inl ⟨rfl, rfl⟩
  · cases h : isOpen u s
    · exact .inr (.inl ⟨rfl, rfl, guarded_closed u body s h⟩)
    · exact .inr (.inr ⟨rfl, rfl, guarded_open u body s h⟩)

/-- `raise` changes nothing but the unit's stream (60_exceptions R251). -/
theorem raise_withOut (u : UnitId) (st : Status) (s : State) :
    raise u st s = withOut u (outOf u s ++ [.result ⟨st, .none⟩]) s := by cases u <;> rfl

theorem raise_eq (u : UnitId) (st : Status) (s : State) : raise u st s = deliver u [] ⟨st, .none⟩ s := rfl

/-! ## The operand checks -/

theorem burstLegal_iff (cfg : Config) (bs : List Byte) :
    burstLegal cfg bs = true ↔ bs ≠ [] ∧ ∀ m, cfg.burstMax = some m → bs.length ≤ m := by
  simp only [burstLegal, decide_eq_true_eq, withinLimit, Option.mem_def]
  exact and_congr (by cases bs <;> simp) Iff.rfl

theorem burstLegal_false (cfg : Config) (bs : List Byte) (h : bs = [] ∨ ∃ m, cfg.burstMax = some m ∧ m < bs.length) :
    burstLegal cfg bs = false := by
  rw [← Bool.not_eq_true, burstLegal_iff]
  rintro ⟨h1, h2⟩
  obtain h | ⟨m, hm, hl⟩ := h
  · exact h1 h
  · have := h2 m hm; omega

theorem payloadLegal_iff (p : List Byte) : payloadLegal p = true ↔ p.length ≤ 255 := by simp [payloadLegal]

theorem fits_iff (depth : Option Nat) (len n : Nat) :
    fits depth len n = true ↔ ∀ d, depth = some d → len + n ≤ d := by simp [fits, withinLimit]

theorem fits_false (depth : Option Nat) (len n : Nat) (h : ∃ d, depth = some d ∧ d < len + n) :
    fits depth len n = false := by
  obtain ⟨d, rfl, hd⟩ := h
  simpa [fits, withinLimit] using hd

/-! ## The queue primitives keep the storage within its bounds -/

/-- An append that fits stays within the depth. -/
theorem qAppend_within (depth : Option Nat) (q bs : List Byte) (h : fits depth q.length bs.length = true) :
    withinLimit depth (qAppend q bs).length := by
  intro d hd
  simpa [qAppend] using (fits_iff depth q.length bs.length).1 h d hd

/-- Dropping bytes stays within the depth. -/
theorem qDrop_within (depth : Option Nat) (q : List Byte) (n : Nat) (h : withinLimit depth q.length) :
    withinLimit depth (qDrop q n).length := by
  intro d hd
  have := h d hd
  simp only [qDrop, List.length_drop]
  omega

/-- What is left of a queue stays within the depth. -/
theorem suffix_within (depth : Option Nat) (q q' : List Byte) (hs : q' <:+ q) (h : withinLimit depth q.length) :
    withinLimit depth q'.length := fun d hd => Nat.le_trans hs.length_le (h d hd)

/-- The empty sequence is within any depth. -/
theorem nil_within (depth : Option Nat) : withinLimit depth ([] : List Byte).length := fun _ _ => Nat.zero_le _

/-- The storage of the reset state is within its bounds. -/
theorem reset_wf : Memory.wf State.reset = true := by decide

/-! ## The operand cuts -/

@[simp] theorem kindOfCode_kindCode (k : ReqKind) : kindOfCode (kindCode k) = some k := by cases k <;> rfl

/-- A request kind is read back from its function code, since the three codes differ (00_scope R6). -/
theorem kindOfFunc_funcOfKind (cfg : Config) (h : cfg.Ok) (k : ReqKind) :
    kindOfFunc cfg (funcOfKind cfg k) = some k := by
  obtain ⟨-, ⟨h1, h2, h3⟩, -⟩ := h
  cases k <;> simp [kindOfFunc, funcOfKind, h1.symm, h2.symm, h3.symm]

@[simp] theorem joinBytes_hi_lo (v : Half) : joinBytes (hiByte v) (loByte v) = v := by
  apply BitVec.eq_of_toNat_eq
  have := v.isLt
  simp only [joinBytes, hiByte, loByte, BitVec.toNat_append, BitVec.extractLsb'_toNat, Nat.shiftLeft_eq]
  rw [← Nat.shiftLeft_eq, ← Nat.shiftLeft_add_eq_or_of_lt (by omega)]
  simp only [Nat.shiftLeft_eq, Nat.shiftRight_eq_div_pow]
  omega

@[simp] theorem hiByte_joinBytes (h l : Byte) : hiByte (joinBytes h l) = h := by
  apply BitVec.eq_of_toNat_eq
  have := h.isLt; have := l.isLt
  simp only [joinBytes, hiByte, BitVec.toNat_append, BitVec.extractLsb'_toNat]
  rw [← Nat.shiftLeft_add_eq_or_of_lt (by omega)]
  simp only [Nat.shiftLeft_eq, Nat.shiftRight_eq_div_pow]
  omega

@[simp] theorem loByte_joinBytes (h l : Byte) : loByte (joinBytes h l) = l := by
  apply BitVec.eq_of_toNat_eq
  have := h.isLt; have := l.isLt
  simp only [joinBytes, loByte, BitVec.toNat_append, BitVec.extractLsb'_toNat]
  rw [← Nat.shiftLeft_add_eq_or_of_lt (by omega)]
  simp only [Nat.shiftLeft_eq, Nat.shiftRight_eq_div_pow]
  omega

/-- `h || l` as the rules also write it: `(h << 8) | l`. -/
theorem joinBytes_eq_or (h l : Byte) : joinBytes h l = (h.setWidth 16 <<< 8) ||| l.setWidth 16 := by
  apply BitVec.eq_of_toNat_eq
  have := h.isLt; have := l.isLt
  simp only [joinBytes, BitVec.toNat_append, BitVec.toNat_or, BitVec.toNat_shiftLeft, BitVec.toNat_setWidth]
  congr 1
  · rw [Nat.mod_eq_of_lt (a := h.toNat) (by omega), Nat.shiftLeft_eq, Nat.mod_eq_of_lt (by omega)]
  · omega

@[simp] theorem funcLow_plainFunc (f : BitVec 7) : funcLow (plainFunc f) = f := by revert f; decide

@[simp] theorem funcLow_exceptionFunc (f : BitVec 7) : funcLow (exceptionFunc f) = f := by revert f; decide

@[simp] theorem plainFunc_bit7 (f : BitVec 7) : (plainFunc f).getLsbD 7 = false := by revert f; decide

@[simp] theorem exceptionFunc_bit7 (f : BitVec 7) : (exceptionFunc f).getLsbD 7 = true := by revert f; decide

end Sys2Proof.Machine
end

