-- ==== Sys2Proof/Laws/Csf.lean ====
section
/-! SUPPORT. The decode pass of unit CSF: where the scan stops, that the number of rounds does not matter, the equation
of the pass without rounds, and the bytes of an encoded frame. -/

namespace Sys2Proof.Machine

/-! ## The scan -/

theorem syncAt_cons_succ (x : Byte) (q : List Byte) (i : Nat) : syncAt (x :: q) (i + 1) ↔ syncAt q i := by
  simp [syncAt]

theorem syncAt_zero_iff (q : List Byte) : syncAt q 0 ↔ ∃ rest, q = csfSync1 :: csfSync2 :: rest := by
  match q with
  | [] => simp [syncAt]
  | [x] => simp [syncAt]
  | x :: y :: rest => simp [syncAt]

theorem syncIndex_some_iff (q : List Byte) (p : Nat) :
    syncIndex q = some p ↔ syncAt q p ∧ ∀ j, j < p → ¬ syncAt q j := by
  induction q using syncIndex.induct generalizing p with
  | case1 x y rest h =>
    have h0 : syncAt (x :: y :: rest) 0 := by simp [syncAt, h.1, h.2]
    simp only [syncIndex, h, and_self, ↓reduceIte, Option.some.injEq]
    constructor
    · rintro rfl
      simpa [h.1, h.2] using h0
    · rintro ⟨-, hp⟩
      by_contra hne
      exact hp 0 (by omega) (by simpa [h.1, h.2] using h0)
  | case2 x y rest h ih =>
    have h0 : ¬ syncAt (x :: y :: rest) 0 := by simpa [syncAt] using h
    rw [syncIndex, if_neg h]
    cases p with
    | zero => simp [h0]
    | succ p =>
      simp only [Option.map_eq_some_iff, Nat.add_right_cancel_iff, exists_eq_right, ih, syncAt_cons_succ]
      refine and_congr_right fun _ => ⟨fun hj j hlt => ?_, fun hj j hlt => ?_⟩
      · cases j with
        | zero => exact h0
        | succ j => rw [syncAt_cons_succ]; exact hj j (by omega)
      · have := hj (j + 1) (by omega)
        rwa [syncAt_cons_succ] at this
  | case3 x => simp [syncIndex, syncAt]
  | case4 => simp [syncIndex, syncAt]

theorem syncIndex_none_iff (q : List Byte) : syncIndex q = none ↔ ∀ i, ¬ syncAt q i := by
  constructor
  · intro h i hi
    induction i using Nat.strongRecOn with
    | _ i ih =>
      have hs := (syncIndex_some_iff q i).2 ⟨hi, fun j hj hs => ih j hj hs⟩
      rw [h] at hs
      cases hs
  · intro h
    cases hs : syncIndex q with
    | none => rfl
    | some p => exact absurd ((syncIndex_some_iff q p).1 hs).1 (h p)

theorem syncAt_lt (q : List Byte) (i : Nat) (h : syncAt q i) : i + 1 < q.length := by
  have := h.2
  rw [List.getElem?_eq_some_iff] at this
  exact this.1

theorem syncIndex_lt (q : List Byte) (p : Nat) (h : syncIndex q = some p) : p + 1 < q.length :=
  syncAt_lt q p ((syncIndex_some_iff q p).1 h).1

theorem syncAt_drop (q : List Byte) (p i : Nat) : syncAt (q.drop p) i ↔ syncAt q (p + i) := by
  simp [syncAt, List.getElem?_drop, Nat.add_assoc]

theorem qDrop_suffix (q : List Byte) (n : Nat) : qDrop q n <:+ q := List.drop_suffix n q

/-! ## The pass without rounds -/

/-- More rounds than the queue has bytes change nothing. -/
theorem csfPass_rounds (n m : Nat) (q : List Byte) (hn : q.length < n) (hm : q.length < m) :
    csfPass n q = csfPass m q := by
  induction n generalizing m q with
  | zero => omega
  | succ n ih =>
    obtain _ | m := m
    · omega
    simp only [csfPass]
    cases hs : syncIndex q with
    | none => rfl
    | some p =>
      have hp := syncIndex_lt q p hs
      have hd : (qDrop q p).length = q.length - p := by simp [qDrop]
      have hl : (qDrop (qDrop q p) (csfTotal (qDrop q p))).length < q.length := by
        simp only [qDrop, List.length_drop, csfTotal]; omega
      have hl1 : (qDrop (qDrop q p) 1).length < q.length := by simp only [qDrop, List.length_drop]; omega
      have e1 := ih m (qDrop (qDrop q p) (csfTotal (qDrop q p))) (by omega) (by omega)
      have e2 := ih m (qDrop (qDrop q p) 1) (by omega) (by omega)
      simp only [e1, e2]

theorem csfPass_eq_decodePass (n : Nat) (q : List Byte) (h : q.length < n) : csfPass n q = csfDecodePass q :=
  csfPass_rounds n (q.length + 1) q h (by omega)

theorem csfDecodePass_no_sync (q : List Byte) (h : syncIndex q = none) : csfDecodePass q = ([], []) := by
  simp [csfDecodePass, csfPass, h]

/-- What the pass does from S2 on, on a queue that begins with a sync (40_csf_framer R124). -/
theorem csfDecodePass_sync (q : List Byte) (h : syncAt q 0) :
    csfDecodePass q =
      if q.length < csfMinFrame then (q, [])
      else if q.length < csfTotal q then (q, [])
      else if csfChecks q then
        if csfMinFrame ≤ (q.drop (csfTotal q)).length then
          ((csfDecodePass (q.drop (csfTotal q))).1, csfFrameAt q :: (csfDecodePass (q.drop (csfTotal q))).2)
        else (q.drop (csfTotal q), [csfFrameAt q])
      else csfDecodePass (q.drop 1) := by
  have hs : syncIndex q = some 0 := (syncIndex_some_iff q 0).2 ⟨h, by omega⟩
  have hlen := syncAt_lt q 0 h
  rw [csfDecodePass, csfPass, hs]
  simp only [qDrop, List.drop_zero]
  rw [csfPass_eq_decodePass _ (q.drop (csfTotal q)) (by simp [csfTotal]; omega),
    csfPass_eq_decodePass _ (q.drop 1) (by simp; omega)]

/-- S1 and S2: what precedes the first sync is discarded. -/
theorem csfDecodePass_drop (q : List Byte) (p : Nat) (h : syncIndex q = some p) :
    csfDecodePass q = csfDecodePass (q.drop p) := by
  have hp := syncIndex_lt q p h
  have h0 : syncIndex (q.drop p) = some 0 := by
    rw [syncIndex_some_iff, syncAt_drop]
    exact ⟨by simpa using ((syncIndex_some_iff q p).1 h).1, by omega⟩
  rw [csfDecodePass, csfPass, h, csfDecodePass, csfPass, h0]
  simp only [qDrop, List.drop_zero]
  rw [csfPass_eq_decodePass q.length _ (by simp [csfTotal]; omega),
    csfPass_eq_decodePass (q.drop p).length _ (by simp [csfTotal]; omega),
    csfPass_eq_decodePass q.length _ (by simp; omega),
    csfPass_eq_decodePass (q.drop p).length _ (by simp; omega)]
  rfl

/-- The pass over sync-free bytes in front of bytes that do not begin with the second sync byte is the pass over the
latter. -/
theorem csfDecodePass_append (g rest : List Byte) (hg : ∀ i, ¬ syncAt g i) (hr : rest[0]? ≠ some csfSync2) :
    csfDecodePass (g ++ rest) = csfDecodePass rest := by
  have key : ∀ i, syncAt (g ++ rest) i → g.length ≤ i := by
    intro i hi
    by_contra hlt
    obtain ⟨h1, h2⟩ := hi
    rw [List.getElem?_append_left (by omega)] at h1
    by_cases hlast : i + 1 < g.length
    · rw [List.getElem?_append_left hlast] at h2
      exact hg i ⟨h1, h2⟩
    · rw [List.getElem?_append_right (by omega), show i + 1 - g.length = 0 by omega] at h2
      exact hr h2
  have shift : ∀ i, syncAt (g ++ rest) (g.length + i) ↔ syncAt rest i := by
    intro i
    rw [← syncAt_drop]
    simp
  cases hs : syncIndex rest with
  | none =>
    rw [csfDecodePass_no_sync rest hs, csfDecodePass_no_sync]
    rw [syncIndex_none_iff] at hs ⊢
    intro i hi
    have := key i hi
    refine hs (i - g.length) ((shift _).1 ?_)
    rwa [Nat.add_sub_cancel' this]
  | some p =>
    have hp := (syncIndex_some_iff rest p).1 hs
    rw [csfDecodePass_drop rest p hs, csfDecodePass_drop (g ++ rest) (g.length + p)]
    · rw [List.drop_append, List.drop_of_length_le (by omega)]
      simp
    · rw [syncIndex_some_iff, shift]
      refine ⟨hp.1, fun j hj hsj => ?_⟩
      have := key j hsj
      refine hp.2 (j - g.length) (by omega) ((shift _).1 ?_)
      rwa [Nat.add_sub_cancel' this]

/-- What a pass leaves is the tail of the queue. -/
theorem csfPass_suffix (n : Nat) (q : List Byte) : (csfPass n q).1 <:+ q := by
  induction n generalizing q with
  | zero => exact List.suffix_refl q
  | succ n ih =>
    have hd := qDrop_suffix
    rw [csfPass]
    cases syncIndex q with
    | none => exact List.nil_suffix
    | some p =>
      dsimp only
      split
      · exact hd _ _
      · split
        · exact hd _ _
        · split
          · split
            · exact (ih _).trans ((hd _ _).trans (hd _ _))
            · exact (hd _ _).trans (hd _ _)
          · exact (ih _).trans ((hd _ _).trans (hd _ _))

theorem csfDecodePass_suffix (q : List Byte) : (csfDecodePass q).1 <:+ q := csfPass_suffix _ q

/-! ## The bytes of a frame -/

theorem foldl_add_toNat (bs : List Byte) (a : Byte) :
    bs.foldl (· + ·) a = BitVec.ofNat 8 (a.toNat + (bs.map BitVec.toNat).sum) := by
  induction bs generalizing a with
  | nil => simp
  | cons b bs ih =>
    rw [List.foldl_cons, ih]
    apply BitVec.eq_of_toNat_eq
    simp [BitVec.toNat_add]
    omega

/-- `sum8` is the sum of the bytes modulo 256 (00_scope R10). -/
theorem sum8_eq (bs : List Byte) : sum8 bs = BitVec.ofNat 8 (bs.map BitVec.toNat).sum := by
  simp [sum8, foldl_add_toNat]

@[simp] theorem csfFrameBytes_length (cmd : Byte) (p : List Byte) : (csfFrameBytes cmd p).length = p.length + 5 := by
  simp [csfFrameBytes]

/-- A candidate written out: its parts as the pass reads them. -/
theorem csfCandidate_reads (cmd len chk : Byte) (value rest : List Byte) (hv : value.length = len.toNat) :
    let q := [csfSync1, csfSync2, cmd, len] ++ value ++ chk :: rest
    syncAt q 0 ∧ csfTotal q = value.length + 5 ∧ value.length + 5 ≤ q.length ∧
    csfChecks q = (sum8 ([csfSync1, csfSync2, cmd, len] ++ value) == chk) ∧
    csfFrameAt q = ⟨cmd, value⟩ ∧ q.drop (csfTotal q) = rest := by
  intro q
  have hq : q = csfSync1 :: csfSync2 :: cmd :: len :: (value ++ chk :: rest) := by simp [q]
  have ht : csfTotal q = value.length + 5 := by simp [hq, csfTotal, memByte, hv, Nat.add_comm]
  have e1 : (value ++ chk :: rest).take value.length = value := by simp
  have e2 : (value ++ chk :: rest)[value.length]? = some chk := by simp
  refine ⟨by simp [hq, syncAt], ht, by simp [hq], ?_, ?_, ?_⟩
  · rw [csfChecks, ht, show value.length + 5 - 1 = value.length + 4 by omega]
    simp [hq, memByte, List.getD_eq_getElem?_getD]
  · simp [hq, csfFrameAt, memByte, memRead, ← hv]
  · rw [ht, hq]
    simp [List.drop_append]

/-- An encoded frame is a candidate whose checksum matches. -/
theorem csfFrameBytes_eq (cmd : Byte) (p : List Byte) :
    csfFrameBytes cmd p = [csfSync1, csfSync2, cmd, BitVec.ofNat 8 p.length] ++ p ++
      [sum8 ([csfSync1, csfSync2, cmd, BitVec.ofNat 8 p.length] ++ p)] := rfl

end Sys2Proof.Machine
end

