-- ==== Sys2Proof/Laws/Decode.lean ====
section
/-! SUPPORT. What the decoder reads from a request record of each operation, and when it reads a wire instruction. -/

set_option Elab.async false

namespace Sys2Proof

open Sys2Proof.Machine

/-- The row of the operation map that covers a code decides. -/
theorem decodeRequest_row (r : Request) (row : OpRow)
    (h : operationMap.find? (fun x => x.covers r.opsel) = some row) : decodeRequest r = .ok (row.build r) := by
  simp only [decodeRequest, h]

/-- Bytes that are the frame of the instruction their fields name are decoded to it. -/
theorem decode_wire (cfg : Config) (format : WireFormat) (dir : Direction) (bs : List Byte) (i : Instr)
    (hd : directionLegal format dir = true) (hc : wireCandidate cfg dir bs format = some i)
    (hf : frameOf cfg i = bs) : decode cfg (.wire format dir bs) = .ok i := by
  simp [decode, decodeWire, hd, hc, hf]

theorem decodeRequest_csfOpen (r : Request) (h : r.opsel = 0b000000) : decodeRequest r = .ok .csfOpen :=
  decodeRequest_row r ⟨0b000000, 0b111111, fun _ => .csfOpen⟩ (by rw [h]; rfl)

theorem decodeRequest_csfClose (r : Request) (h : r.opsel = 0b000001) : decodeRequest r = .ok .csfClose :=
  decodeRequest_row r ⟨0b000001, 0b111111, fun _ => .csfClose⟩ (by rw [h]; rfl)

theorem decodeRequest_csfPush (r : Request) (h : r.opsel = 0b000010) : decodeRequest r = .ok (.csfPush r.data) :=
  decodeRequest_row r ⟨0b000010, 0b111111, fun r => .csfPush r.data⟩ (by rw [h]; rfl)

theorem decodeRequest_csfDecode (r : Request) (h : r.opsel = 0b000011) : decodeRequest r = .ok (.csfDecode (filterEnableOf r.c) r.a) :=
  decodeRequest_row r ⟨0b000011, 0b111111, fun r => .csfDecode (filterEnableOf r.c) r.a⟩ (by rw [h]; rfl)

theorem decodeRequest_csfClear (r : Request) (h : r.opsel = 0b000100) : decodeRequest r = .ok .csfClear :=
  decodeRequest_row r ⟨0b000100, 0b111111, fun _ => .csfClear⟩ (by rw [h]; rfl)

theorem decodeRequest_csfEncode (r : Request) (h : r.opsel = 0b000101) : decodeRequest r = .ok (.csfEncode r.a r.data) :=
  decodeRequest_row r ⟨0b000101, 0b111111, fun r => .csfEncode r.a r.data⟩ (by rw [h]; rfl)

theorem decodeRequest_ffcOpen (r : Request) (h : r.opsel = 0b010000) : decodeRequest r = .ok .ffcOpen :=
  decodeRequest_row r ⟨0b010000, 0b111111, fun _ => .ffcOpen⟩ (by rw [h]; rfl)

theorem decodeRequest_ffcClose (r : Request) (h : r.opsel = 0b010001) : decodeRequest r = .ok .ffcClose :=
  decodeRequest_row r ⟨0b010001, 0b111111, fun _ => .ffcClose⟩ (by rw [h]; rfl)

theorem decodeRequest_ffcPush (r : Request) (h : r.opsel = 0b010010) : decodeRequest r = .ok (.ffcPush r.data) :=
  decodeRequest_row r ⟨0b010010, 0b111111, fun r => .ffcPush r.data⟩ (by rw [h]; rfl)

theorem decodeRequest_ffcDecode (r : Request) (h : r.opsel = 0b010011) : decodeRequest r = .ok .ffcDecode :=
  decodeRequest_row r ⟨0b010011, 0b111111, fun _ => .ffcDecode⟩ (by rw [h]; rfl)

theorem decodeRequest_ffcClear (r : Request) (h : r.opsel = 0b010100) : decodeRequest r = .ok .ffcClear :=
  decodeRequest_row r ⟨0b010100, 0b111111, fun _ => .ffcClear⟩ (by rw [h]; rfl)

theorem decodeRequest_ffcEncode (r : Request) (h : r.opsel = 0b010101) : decodeRequest r = .ok (.ffcEncode r.a r.b r.c) :=
  decodeRequest_row r ⟨0b010101, 0b111111, fun r => .ffcEncode r.a r.b r.c⟩ (by rw [h]; rfl)

theorem decodeRequest_ffcAux (r : Request) (h : r.opsel = 0b010110) : decodeRequest r = .ok (.ffcAux (auxIndexOf r.a)) :=
  decodeRequest_row r ⟨0b010110, 0b111111, fun r => .ffcAux (auxIndexOf r.a)⟩ (by rw [h]; rfl)

theorem decodeRequest_ffcClassify (r : Request) (h : r.opsel = 0b010111) : decodeRequest r = .ok .ffcClassify :=
  decodeRequest_row r ⟨0b010111, 0b111111, fun _ => .ffcClassify⟩ (by rw [h]; rfl)

theorem decodeRequest_mbcOpen (r : Request) (h : r.opsel = 0b100000) : decodeRequest r = .ok .mbcOpen :=
  decodeRequest_row r ⟨0b100000, 0b111111, fun _ => .mbcOpen⟩ (by rw [h]; rfl)

theorem decodeRequest_mbcClose (r : Request) (h : r.opsel = 0b100001) : decodeRequest r = .ok .mbcClose :=
  decodeRequest_row r ⟨0b100001, 0b111111, fun _ => .mbcClose⟩ (by rw [h]; rfl)

theorem decodeRequest_mbcRx (r : Request) (h : r.opsel = 0b100010) : decodeRequest r = .ok (.mbcRx r.a) :=
  decodeRequest_row r ⟨0b100010, 0b111111, fun r => .mbcRx r.a⟩ (by rw [h]; rfl)

theorem decodeRequest_mbcTimeout (r : Request) (h : r.opsel = 0b100011) : decodeRequest r = .ok .mbcTimeout :=
  decodeRequest_row r ⟨0b100011, 0b111111, fun _ => .mbcTimeout⟩ (by rw [h]; rfl)

theorem decodeRequest_mbcReq (r : Request) (h : r.opsel = 0b100101) : decodeRequest r = .ok (.mbcReq r.a (kindOf r.c) r.b r.d) :=
  decodeRequest_row r ⟨0b100101, 0b111111, fun r => .mbcReq r.a (kindOf r.c) r.b r.d⟩ (by rw [h]; rfl)

theorem decodeRequest_mbcCrcrst (r : Request) (h : r.opsel = 0b101000) : decodeRequest r = .ok .mbcCrcrst :=
  decodeRequest_row r ⟨0b101000, 0b111111, fun _ => .mbcCrcrst⟩ (by rw [h]; rfl)

theorem decodeRequest_mbcCrcbyte (r : Request) (h : r.opsel = 0b101001) : decodeRequest r = .ok (.mbcCrcbyte r.a) :=
  decodeRequest_row r ⟨0b101001, 0b111111, fun r => .mbcCrcbyte r.a⟩ (by rw [h]; rfl)

theorem decodeRequest_mbcCrcrd (r : Request) (h : r.opsel = 0b101010) : decodeRequest r = .ok .mbcCrcrd :=
  decodeRequest_row r ⟨0b101010, 0b111111, fun _ => .mbcCrcrd⟩ (by rw [h]; rfl)

end Sys2Proof
end

