-- ==== Sys2Proof/Laws/Cycle.lean ====
section
/-! SUPPORT. What a step can do, and what receiving bytes does, said once. -/

namespace Sys2Proof.Machine

/-! ## A step -/

/-- The reset input comes first (70_reset R291). -/
theorem step_reset (s : State) (hc : s.cfg.Ok) (hp : s.host.resetPin = true) : step s = .next (resetBlock s) := by
  rw [step, cycle, if_pos hc, if_pos hp]

/-- An accepted item runs. -/
theorem step_runs (s : State) (item : Item) (hc : s.cfg.Ok) (hp : s.host.resetPin = false)
    (ha : s.host.accepted = some item) : step s = runItem item (retire s) := by
  rw [step, cycle, if_pos hc, hp, if_neg Bool.false_ne_true, ha]

/-- With nothing accepted a waiting item is accepted. -/
theorem step_accepts (s : State) (hc : s.cfg.Ok) (hp : s.host.resetPin = false) (ha : s.host.accepted = none) :
    step s = .next (acceptNext s) := by
  rw [step, cycle, if_pos hc, hp, if_neg Bool.false_ne_true, ha]

/-- A configuration against 00_scope R6. -/
theorem step_refuses (s : State) (hc : ¬ s.cfg.Ok) : step s = .refused .badConfiguration := by
  rw [step, cycle, if_neg hc]

/-! ## An item -/

@[simp] theorem retire_cfg (s : State) : (retire s).cfg = s.cfg := rfl
@[simp] theorem retire_csf (s : State) : (retire s).csf = s.csf := rfl
@[simp] theorem retire_ffc (s : State) : (retire s).ffc = s.ffc := rfl
@[simp] theorem retire_mbc (s : State) : (retire s).mbc = s.mbc := rfl

/-- An item that is an instruction. -/
theorem runItem_ok (item : Item) (i : Instr) (s : State) (h : decode s.cfg item = .ok i) :
    runItem item s = exec i s := by rw [runItem, h]

/-- An item that is none. -/
theorem runItem_error (item : Item) (e : DecodeError) (s : State) (h : decode s.cfg item = .error e) :
    runItem item s = .next (carryBytes item s) := by rw [runItem, h]

/-! ## Receiving -/

@[simp] theorem receiveBytes_csf (bs : List Byte) (s : State) : receiveBytes .csf bs s = csfPush bs s := rfl
@[simp] theorem receiveBytes_ffc (bs : List Byte) (s : State) : receiveBytes .ffc bs s = ffcPush bs s := rfl
@[simp] theorem receiveBytes_mbc (bs : List Byte) (s : State) : receiveBytes .mbc bs s = mbcRxAll bs s := rfl

@[simp] theorem mbcRxAll_nil (s : State) : mbcRxAll [] s = s := rfl
@[simp] theorem mbcRxAll_cons (b : Byte) (bs : List Byte) (s : State) :
    mbcRxAll (b :: bs) s = mbcRxAll bs (mbcRx b s) := rfl

/-- What a frame's instruction does when it is received: its bytes reach the format's unit. -/
theorem exec_received (format : WireFormat) (bs : List Byte) (i : Instr) (s : State)
    (h : decode s.cfg (.wire format .receive bs) = .ok i) :
    exec i s = .next (receiveBytes (formatUnit format) bs s) := by
  simp only [decode, decodeWire] at h
  split at h
  · split at h
    · next j hj =>
      split at h
      · next hf =>
        cases h
        cases format <;>
          simp_all only [directionLegal, beq_iff_eq, reduceCtorEq, wireCandidate, Option.some.injEq] <;>
          (subst hj; exact congrArg (fun b => Host.Outcome.next (receiveBytes _ b s)) hf)
      · cases h
    · cases h
  · cases h

/-- Received bytes, of the format they are presented as or of none, reach the format's unit (log entry 9). -/
theorem runItem_received (format : WireFormat) (bs : List Byte) (s : State) :
    runItem (.wire format .receive bs) s = .next (receiveBytes (formatUnit format) bs s) := by
  cases h : decode s.cfg (.wire format .receive bs) with
  | ok i => rw [runItem_ok _ i s h, exec_received format bs i s h]
  | error e => rw [runItem_error _ e s h]; rfl

end Sys2Proof.Machine
end

