-- ==== Sys2Proof/Laws/Ffc.lean ====
section
/-! SUPPORT. The classifier of unit FFC on a queue written out, and the decode pass without rounds. -/

namespace Sys2Proof.Machine

/-- A whole command frame at the head (41_ffc_codec R152, R153). -/
theorem classifyQueue_frame (cfg : Config) (lenByte cmd ah al value trailer : Byte) (rest : List Byte) :
    classifyQueue cfg ([ffcSync1, ffcSync2, lenByte, cmd, ah, al, value, trailer] ++ rest) =
      ⟨8, [.cmdFrame cmd (joinBytes ah al) value lenByte trailer], rest⟩ := by
  simp [classifyQueue, cmdFrameAt, memByte, qDrop]

/-- Any other pair at the head is taken as a sample (R152, R162). -/
theorem classifyQueue_sample (cfg : Config) (h l : Byte) (rest : List Byte)
    (hn : ¬ (h = ffcSync1 ∧ l = ffcSync2 ∧ 6 ≤ rest.length)) :
    classifyQueue cfg (h :: l :: rest) = ⟨2, sampleEvents cfg h l, rest⟩ := by
  have hn' : ¬ (8 ≤ (h :: l :: rest).length ∧ memByte (h :: l :: rest) 0 = ffcSync1 ∧
      memByte (h :: l :: rest) 1 = ffcSync2) := by
    rintro ⟨h8, h0, h1⟩
    simp only [List.length_cons] at h8
    exact hn ⟨h0, h1, by omega⟩
  rw [classifyQueue, if_neg hn', if_pos (by simp)]
  rfl

/-- Fewer than two bytes: nothing happens (R152). -/
theorem classifyQueue_short (cfg : Config) (q : List Byte) (h : q.length < 2) : classifyQueue cfg q = ⟨0, [], q⟩ := by
  rw [classifyQueue, if_neg (by omega), if_neg (by omega)]

/-- A classify step leaves the tail of the queue. -/
theorem classifyQueue_suffix (cfg : Config) (q : List Byte) : (classifyQueue cfg q).q <:+ q := by
  unfold classifyQueue
  split
  · exact List.drop_suffix _ _
  · split
    · exact List.drop_suffix _ _
    · exact List.suffix_refl q

/-- A classify step on two bytes or more removes a byte. -/
theorem classifyQueue_shrinks (cfg : Config) (q : List Byte) (h : 2 ≤ q.length) :
    (classifyQueue cfg q).q.length < q.length := by
  unfold classifyQueue
  split
  · simp only [qDrop, List.length_drop]; omega
  · simp only [qDrop, List.length_drop]; omega

/-- More rounds than the queue has bytes change nothing. -/
theorem ffcPass_rounds (cfg : Config) (n m : Nat) (q : List Byte) (hn : q.length ≤ n) (hm : q.length ≤ m) :
    ffcPass cfg n q = ffcPass cfg m q := by
  induction n generalizing m q with
  | zero =>
    obtain _ | m := m
    · rfl
    · rw [ffcPass, ffcPass, if_neg (by omega)]
  | succ n ih =>
    obtain _ | m := m
    · rw [ffcPass, ffcPass, if_neg (by omega)]
    · rw [ffcPass, ffcPass]
      by_cases h : 2 ≤ q.length
      · have := classifyQueue_shrinks cfg q h
        rw [if_pos h, if_pos h]
        dsimp only
        rw [ih m (classifyQueue cfg q).q (by omega) (by omega)]
      · rw [if_neg h, if_neg h]

/-- The pass on fewer than two bytes. -/
theorem ffcDecodePass_short (cfg : Config) (q : List Byte) (h : q.length < 2) : ffcDecodePass cfg q = (0, [], q) := by
  unfold ffcDecodePass
  cases q.length <;> simp [ffcPass, h]

/-- One round of the pass (R156). -/
theorem ffcDecodePass_round (cfg : Config) (q : List Byte) (h : 2 ≤ q.length) :
    ffcDecodePass cfg q =
      ((ffcDecodePass cfg (classifyQueue cfg q).q).1 + 1,
        (classifyQueue cfg q).events ++ (ffcDecodePass cfg (classifyQueue cfg q).q).2.1,
        (ffcDecodePass cfg (classifyQueue cfg q).q).2.2) := by
  have hs := classifyQueue_shrinks cfg q h
  unfold ffcDecodePass
  rw [ffcPass_rounds cfg q.length ((q.length - 1) + 1) q (by omega) (by omega), ffcPass, if_pos h]
  dsimp only
  rw [ffcPass_rounds cfg (q.length - 1) (classifyQueue cfg q).q.length _ (by omega) (by omega)]

/-- What the pass leaves is the tail of the queue. -/
theorem ffcPass_suffix (cfg : Config) (n : Nat) (q : List Byte) : (ffcPass cfg n q).2.2 <:+ q := by
  induction n generalizing q with
  | zero => exact List.suffix_refl q
  | succ n ih =>
    rw [ffcPass]
    split
    · exact (ih _).trans (classifyQueue_suffix cfg q)
    · exact List.suffix_refl q

theorem ffcDecodePass_suffix (cfg : Config) (q : List Byte) : (ffcDecodePass cfg q).2.2 <:+ q := ffcPass_suffix cfg _ q

end Sys2Proof.Machine
end

