-- ==== Sys2Proof/Laws/Mbc.lean ====
section
/-! SUPPORT. Unit MBC: lengths of responses, what the bytes of a frame read as, and how `MBC.RX` goes through the bytes
of a response. -/

namespace Sys2Proof.Machine

/-! ## Lengths -/

theorem mbRespLen_bounds (cfg : Config) (h1 h2 expFunc : Byte) :
    5 ≤ mbRespLen cfg h1 h2 expFunc ∧ mbRespLen cfg h1 h2 expFunc ≤ 260 := by
  have := h2.isLt
  unfold mbRespLen
  split
  · omega
  · split <;> omega

theorem mbRequired_bounds (cfg : Config) (expFunc : Byte) (r : List Byte) :
    5 ≤ mbRequired cfg expFunc r ∧ mbRequired cfg expFunc r ≤ 260 := mbRespLen_bounds cfg _ _ _

/-- The required length is fixed by the first three bytes. -/
theorem mbRequired_append (cfg : Config) (expFunc : Byte) (r more : List Byte) (h : 3 ≤ r.length) :
    mbRequired cfg expFunc (r ++ more) = mbRequired cfg expFunc r := by
  simp [mbRequired, memByte, List.getD_eq_getElem?_getD, List.getElem?_append_left (show 1 < r.length by omega),
    List.getElem?_append_left (show 2 < r.length by omega)]

theorem mbComplete_iff (cfg : Config) (expFunc : Byte) (r : List Byte) :
    mbComplete cfg expFunc r = true ↔ 3 ≤ r.length ∧ r.length = mbRequired cfg expFunc r := by
  simp [mbComplete]

/-! ## Receiving -/

/-- `MBC.RX` while no transaction waits (42_mbc_crc16 R191). -/
theorem mbcRxBody_idle (b : Byte) (s : State) (h : s.mbc.busy = false) : mbcRxBody b s = raise .mbc .mbIdle s := by
  simp [mbcRxBody, h]

/-- `MBC.RX` of a byte that does not complete the response. -/
theorem mbcRxBody_more (b : Byte) (s : State) (h : s.mbc.busy = true)
    (hc : mbComplete s.cfg s.mbc.expFunc (s.mbc.r ++ [b]) = false) :
    mbcRxBody b s = s.setMbc { s.mbc with r := s.mbc.r ++ [b], out := s.mbc.out ++ [.result ⟨.ok, .incomplete⟩] } := by
  simp [mbcRxBody, h, qAppend, hc]

/-- `MBC.RX` of the byte that completes the response. -/
theorem mbcRxBody_last (b : Byte) (s : State) (h : s.mbc.busy = true)
    (hc : mbComplete s.cfg s.mbc.expFunc (s.mbc.r ++ [b]) = true) :
    mbcRxBody b s = s.setMbc { s.mbc with
      r := [], busy := false
      out := s.mbc.out ++
        [.result (verdictResult (mbCheck s.cfg s.mbc.expSlave s.mbc.expFunc (s.mbc.r ++ [b])))] } := by
  simp [mbcRxBody, h, qAppend, hc]

theorem mbcRx_open (b : Byte) (s : State) (h : s.mbc.isOpen = true) : mbcRx b s = mbcRxBody b s :=
  guarded_open .mbc (mbcRxBody b) s h

/-- The bytes before the last of a response are collected one by one. -/
theorem mbcRxAll_collect (bs : List Byte) (s : State) (ho : s.mbc.isOpen = true) (hb : s.mbc.busy = true)
    (hn : ∀ k, k < bs.length → mbComplete s.cfg s.mbc.expFunc (s.mbc.r ++ bs.take (k + 1)) = false) :
    mbcRxAll bs s = s.setMbc { s.mbc with
      r := s.mbc.r ++ bs
      out := s.mbc.out ++ List.replicate bs.length (.result ⟨.ok, .incomplete⟩) } := by
  induction bs generalizing s with
  | nil =>
    simp only [List.append_nil, List.length_nil, List.replicate_zero]
    rfl
  | cons b bs ih =>
    have h0 := hn 0 (by simp)
    simp only [Nat.zero_add, List.take_succ_cons, List.take_zero] at h0
    rw [mbcRxAll, List.foldl_cons, ← mbcRxAll, mbcRx_open b s ho, mbcRxBody_more b s hb h0, ih]
    · simp [List.replicate_succ]
    · simpa using ho
    · simpa using hb
    · intro k hk
      have := hn (k + 1) (by simpa using hk)
      simpa [List.append_assoc] using this

/-- A whole response, received while its transaction waits, gets its verdict on its last byte. -/
theorem mbcRxAll_response (bs : List Byte) (s : State) (ho : s.mbc.isOpen = true) (hb : s.mbc.busy = true)
    (hr : s.mbc.r = []) (hlen : bs.length = mbRequired s.cfg s.mbc.expFunc bs) :
    mbcRxAll bs s = s.setMbc { s.mbc with
      r := [], busy := false
      out := s.mbc.out ++ (List.replicate (bs.length - 1) (.result ⟨.ok, .incomplete⟩) ++
        [.result (verdictResult (mbCheck s.cfg s.mbc.expSlave s.mbc.expFunc bs))]) } := by
  have hbounds := mbRequired_bounds s.cfg s.mbc.expFunc bs
  have hne : bs ≠ [] := by rintro rfl; simp at hlen; omega
  have hsplit : bs.dropLast ++ [bs.getLast hne] = bs := List.dropLast_append_getLast hne
  have hdl : bs.dropLast.length = bs.length - 1 := List.length_dropLast
  have hpre : ∀ k, k < bs.dropLast.length →
      mbComplete s.cfg s.mbc.expFunc (s.mbc.r ++ bs.dropLast.take (k + 1)) = false := by
    intro k hk
    rw [← Bool.not_eq_true, mbComplete_iff, hr, List.nil_append]
    rintro ⟨h3, heq⟩
    have ht : bs = bs.dropLast.take (k + 1) ++ bs.drop (k + 1) := by
      rw [List.dropLast_eq_take, List.take_take, Nat.min_eq_left (by omega), List.take_append_drop]
    rw [ht, mbRequired_append _ _ _ _ h3, ← heq, ← ht] at hlen
    simp only [List.length_take] at hlen
    omega
  have happ : mbcRxAll bs s = mbcRx (bs.getLast hne) (mbcRxAll bs.dropLast s) := by
    conv_lhs => rw [← hsplit]
    simp [mbcRxAll]
  rw [happ, mbcRxAll_collect _ s ho hb hpre, mbcRx_open _ _ (by simpa using ho), mbcRxBody_last _ _ (by simpa using hb)]
  · simp [hr, hsplit]
  · simp only [setMbc_cfg, setMbc_mbc, hr, List.nil_append, hsplit]
    exact (mbComplete_iff _ _ _).2 ⟨by omega, hlen⟩

/-! ## The verdict -/

/-- The verdict on `body ++ [lo, hi]` of the required length (42_mbc_crc16 R192). -/
theorem mbCheck_body (cfg : Config) (expSlave expFunc slave func third lo hi : Byte) (more : List Byte)
    (hlen : (slave :: func :: third :: more).length + 2 =
      mbRequired cfg expFunc (slave :: func :: third :: more ++ [lo, hi])) :
    mbCheck cfg expSlave expFunc (slave :: func :: third :: more ++ [lo, hi]) =
      if crc16 (slave :: func :: third :: more) ≠ joinBytes hi lo then
        .crcError (crc16 (slave :: func :: third :: more)) (joinBytes hi lo)
      else if slave ≠ expSlave then .slaveMismatch slave
      else if func.getLsbD 7 then .exception func third
      else if func ≠ expFunc then .funcMismatch func
      else if expFunc = cfg.mbFcReadHolding then .readOk slave func third (memRead (more ++ [lo, hi]) 0 third.toNat)
      else .writeOk slave func (joinBytes third (memByte (more ++ [lo, hi]) 0))
        (joinBytes (memByte (more ++ [lo, hi]) 1) (memByte (more ++ [lo, hi]) 2)) := by
  rw [mbCheck, ← hlen]
  have e1 : (more ++ [lo, hi])[more.length + 1]? = some hi := by simp
  have e2 : (more ++ [lo, hi])[more.length]? = some lo := by simp
  simp [memByte, memRead, List.getD_eq_getElem?_getD]

/-! ## The CRC -/

/-- The eight shifts as an iteration (42_mbc_crc16 R182). -/
theorem crcShifts_iterate (n : Nat) (x : Half) : crcShifts n x = Nat.iterate crcShift n x := by
  induction n generalizing x with
  | zero => rfl
  | succ n ih => exact ih (crcShift x)

theorem crc16_append (a b : List Byte) : crc16 (a ++ b) = b.foldl crcStep (crc16 a) := by simp [crc16]

end Sys2Proof.Machine
end

