-- ==== Sys2Proof/Laws/PerInstr.lean ====
section
/-! SUPPORT. The per-instruction families. `EncodeNamesUnit`: the item the encoder writes for an instruction is for the
unit the instruction belongs to (spec/30_encoding.md R90). -/

namespace Sys2Proof.Laws.EncodeNamesUnit

open Sys2Proof.Machine

/-- The item the encoder writes is for the instruction's unit. -/
def Statement (i : Instr) : Prop := ∀ cfg : Config, itemUnit (encode cfg i) = instrUnit i

theorem csfOpen : Statement (.csfOpen) :=
  fun _ => show opselUnit 0b000000 = .csf by decide

theorem csfClose : Statement (.csfClose) :=
  fun _ => show opselUnit 0b000001 = .csf by decide

theorem csfPush (x0 : _) : Statement (.csfPush x0) :=
  fun _ => show opselUnit 0b000010 = .csf by decide

theorem csfDecode (x0 : _) (x1 : _) : Statement (.csfDecode x0 x1) :=
  fun _ => show opselUnit 0b000011 = .csf by decide

theorem csfClear : Statement (.csfClear) :=
  fun _ => show opselUnit 0b000100 = .csf by decide

theorem csfEncode (x0 : _) (x1 : _) : Statement (.csfEncode x0 x1) :=
  fun _ => show opselUnit 0b000101 = .csf by decide

theorem ffcOpen : Statement (.ffcOpen) :=
  fun _ => show opselUnit 0b010000 = .ffc by decide

theorem ffcClose : Statement (.ffcClose) :=
  fun _ => show opselUnit 0b010001 = .ffc by decide

theorem ffcPush (x0 : _) : Statement (.ffcPush x0) :=
  fun _ => show opselUnit 0b010010 = .ffc by decide

theorem ffcDecode : Statement (.ffcDecode) :=
  fun _ => show opselUnit 0b010011 = .ffc by decide

theorem ffcClear : Statement (.ffcClear) :=
  fun _ => show opselUnit 0b010100 = .ffc by decide

theorem ffcEncode (x0 : _) (x1 : _) (x2 : _) : Statement (.ffcEncode x0 x1 x2) :=
  fun _ => show opselUnit 0b010101 = .ffc by decide

theorem ffcAux (x0 : _) : Statement (.ffcAux x0) :=
  fun _ => show opselUnit 0b010110 = .ffc by decide

theorem ffcClassify : Statement (.ffcClassify) :=
  fun _ => show opselUnit 0b010111 = .ffc by decide

theorem mbcOpen : Statement (.mbcOpen) :=
  fun _ => show opselUnit 0b100000 = .mbc by decide

theorem mbcClose : Statement (.mbcClose) :=
  fun _ => show opselUnit 0b100001 = .mbc by decide

theorem mbcRx (x0 : _) : Statement (.mbcRx x0) :=
  fun _ => show opselUnit 0b100010 = .mbc by decide

theorem mbcTimeout : Statement (.mbcTimeout) :=
  fun _ => show opselUnit 0b100011 = .mbc by decide

theorem mbcReq (x0 : _) (x1 : _) (x2 : _) (x3 : _) : Statement (.mbcReq x0 x1 x2 x3) :=
  fun _ => show opselUnit 0b100101 = .mbc by decide

theorem mbcCrcrst : Statement (.mbcCrcrst) :=
  fun _ => show opselUnit 0b101000 = .mbc by decide

theorem mbcCrcbyte (x0 : _) : Statement (.mbcCrcbyte x0) :=
  fun _ => show opselUnit 0b101001 = .mbc by decide

theorem mbcCrcrd : Statement (.mbcCrcrd) :=
  fun _ => show opselUnit 0b101010 = .mbc by decide

theorem reservedUnit11 (x0 : _) : Statement (.reservedUnit11 x0) := by
  intro cfg
  have h : ∀ x : BitVec 4, opselUnit ((0b11 : BitVec 2) ++ x) = .reserved := by decide
  exact h x0

theorem reserved000110 : Statement (.reserved000110) :=
  fun _ => show opselUnit 0b000110 = .csf by decide

theorem reserved000111 : Statement (.reserved000111) :=
  fun _ => show opselUnit 0b000111 = .csf by decide

theorem reserved001000 : Statement (.reserved001000) :=
  fun _ => show opselUnit 0b001000 = .csf by decide

theorem reserved001001 : Statement (.reserved001001) :=
  fun _ => show opselUnit 0b001001 = .csf by decide

theorem reserved001010 : Statement (.reserved001010) :=
  fun _ => show opselUnit 0b001010 = .csf by decide

theorem reserved001011 : Statement (.reserved001011) :=
  fun _ => show opselUnit 0b001011 = .csf by decide

theorem reserved001100 : Statement (.reserved001100) :=
  fun _ => show opselUnit 0b001100 = .csf by decide

theorem reserved001101 : Statement (.reserved001101) :=
  fun _ => show opselUnit 0b001101 = .csf by decide

theorem reserved001110 : Statement (.reserved001110) :=
  fun _ => show opselUnit 0b001110 = .csf by decide

theorem reserved001111 : Statement (.reserved001111) :=
  fun _ => show opselUnit 0b001111 = .csf by decide

theorem reserved011000 : Statement (.reserved011000) :=
  fun _ => show opselUnit 0b011000 = .ffc by decide

theorem reserved011001 : Statement (.reserved011001) :=
  fun _ => show opselUnit 0b011001 = .ffc by decide

theorem reserved011010 : Statement (.reserved011010) :=
  fun _ => show opselUnit 0b011010 = .ffc by decide

theorem reserved011011 : Statement (.reserved011011) :=
  fun _ => show opselUnit 0b011011 = .ffc by decide

theorem reserved011100 : Statement (.reserved011100) :=
  fun _ => show opselUnit 0b011100 = .ffc by decide

theorem reserved011101 : Statement (.reserved011101) :=
  fun _ => show opselUnit 0b011101 = .ffc by decide

theorem reserved011110 : Statement (.reserved011110) :=
  fun _ => show opselUnit 0b011110 = .ffc by decide

theorem reserved011111 : Statement (.reserved011111) :=
  fun _ => show opselUnit 0b011111 = .ffc by decide

theorem reserved100100 : Statement (.reserved100100) :=
  fun _ => show opselUnit 0b100100 = .mbc by decide

theorem reserved100110 : Statement (.reserved100110) :=
  fun _ => show opselUnit 0b100110 = .mbc by decide

theorem reserved100111 : Statement (.reserved100111) :=
  fun _ => show opselUnit 0b100111 = .mbc by decide

theorem reserved101011 : Statement (.reserved101011) :=
  fun _ => show opselUnit 0b101011 = .mbc by decide

theorem reserved101100 : Statement (.reserved101100) :=
  fun _ => show opselUnit 0b101100 = .mbc by decide

theorem reserved101101 : Statement (.reserved101101) :=
  fun _ => show opselUnit 0b101101 = .mbc by decide

theorem reserved101110 : Statement (.reserved101110) :=
  fun _ => show opselUnit 0b101110 = .mbc by decide

theorem reserved101111 : Statement (.reserved101111) :=
  fun _ => show opselUnit 0b101111 = .mbc by decide

theorem wireCsfFrame (x0 : _) (x1 : _) (x2 : _) : Statement (.wireCsfFrame x0 x1 x2) :=
  fun _ => rfl

theorem wireFfcCmdframe (x0 : _) (x1 : _) (x2 : _) (x3 : _) (x4 : _) :
    Statement (.wireFfcCmdframe x0 x1 x2 x3 x4) :=
  fun _ => rfl

theorem wireFfcSample (x0 : _) : Statement (.wireFfcSample x0) :=
  fun _ => rfl

theorem wireFfcAuxEnter : Statement (.wireFfcAuxEnter) :=
  fun _ => rfl

theorem wireFfcAuxExit : Statement (.wireFfcAuxExit) :=
  fun _ => rfl

theorem wireFfcAuxSuspend : Statement (.wireFfcAuxSuspend) :=
  fun _ => rfl

theorem wireFfcAuxResume : Statement (.wireFfcAuxResume) :=
  fun _ => rfl

theorem wireMbcRequest (x0 : _) (x1 : _) (x2 : _) (x3 : _) : Statement (.wireMbcRequest x0 x1 x2 x3) :=
  fun _ => rfl

theorem wireMbcRespRead (x0 : _) (x1 : _) (x2 : _) : Statement (.wireMbcRespRead x0 x1 x2) :=
  fun _ => rfl

theorem wireMbcRespWrite (x0 : _) (x1 : _) (x2 : _) (x3 : _) : Statement (.wireMbcRespWrite x0 x1 x2 x3) :=
  fun _ => rfl

theorem wireMbcRespException (x0 : _) (x1 : _) (x2 : _) : Statement (.wireMbcRespException x0 x1 x2) :=
  fun _ => rfl

end Sys2Proof.Laws.EncodeNamesUnit
end

