-- ==== Sys2Proof/Tests/Slice0.lean ====
section
/-! SUPPORT. Tests of the model on the words of the opcode table and the vectors of spec/95_test_vectors.md; the
expected values are the spec's. Their sources stand in the docstrings. -/

set_option Elab.async false

namespace Sys2Proof.Tests

open Sys2Proof.Machine

/-! ## Small states -/

/-- The standard configuration with values for the OPEN parameters that the tests look at. -/
def cfg : Config :=
  { Config.standard with
    ffcTrailer := 0x0D
    ffcAux := #v[#v[1, 2, 3, 4, 5], #v[6, 7, 8, 9, 10], #v[11, 12, 13, 14, 15], #v[16, 17, 18, 19, 20]] }

/-- Every unit open, with given bytes in its queue or buffer. -/
def openState (c f : List Byte) : State :=
  { State.reset with
    cfg := cfg
    csf := { Csf.atReset with isOpen := true, q := c }
    ffc := { Ffc.atReset with isOpen := true, q := f }
    mbc := { Mbc.atReset with isOpen := true } }

/-- Unit MBC with a transaction in progress. -/
def busyState (func : Byte) (r : List Byte) : State :=
  (openState [] []).setMbc { Mbc.atReset with isOpen := true, busy := true, expSlave := 1, expFunc := func, r := r }

/-- Unit CSF after an instruction: its queue and what it delivered. -/
def csfAfter (i : Instr) (s : State) : List Byte × List Delivery := ((after i s).csf.q, (after i s).csf.out)

/-- Unit FFC after an instruction: its queue and what it delivered. -/
def ffcAfter (i : Instr) (s : State) : List Byte × List Delivery := ((after i s).ffc.q, (after i s).ffc.out)

/-- The event record of a decoded frame. -/
def frame (c : Byte) (p : List Byte) : Delivery := .event (.frameReceived c p true)

/-- A result without fields. -/
def status (st : Status) : Delivery := .result ⟨st, .none⟩

/-- The two frames of 95_test_vectors: `A` and `B`. -/
def frameA : List Byte := [0xEB, 0x97, 0x21, 0x02, 0x01, 0x02, 0xA8]
def frameB : List Byte := [0xEB, 0x97, 0x13, 0x01, 0x00, 0x96]

/-! ## Decoding: the words of the opcode table (30_encoding R91, R93) -/

/-- The codes of unit CSF, operands 0 (R91). -/
theorem test_decode_csf_codes :
    [0b000000, 0b000001, 0b000010, 0b000011, 0b000100, 0b000101].map (decodeTableWord 8) =
    [some .csfOpen, some .csfClose, some (.csfPush []), some (.csfDecode false 0), some .csfClear, some (.csfEncode 0 [])] := by decide +kernel

/-- The reserved codes of unit CSF (R93). -/
theorem test_decode_csf_reserved :
    [0b000110, 0b000111, 0b001000, 0b001001, 0b001010, 0b001011, 0b001100, 0b001101, 0b001110, 0b001111].map (decodeTableWord 8) =
    [some .reserved000110, some .reserved000111, some .reserved001000, some .reserved001001, some .reserved001010, some .reserved001011, some .reserved001100, some .reserved001101, some .reserved001110, some .reserved001111] := by decide +kernel

/-- The codes of unit FFC, operands 0 (R91). -/
theorem test_decode_ffc_codes :
    [0b010000, 0b010001, 0b010010, 0b010011, 0b010100, 0b010101, 0b010110, 0b010111].map (decodeTableWord 8) =
    [some .ffcOpen, some .ffcClose, some (.ffcPush []), some .ffcDecode, some .ffcClear, some (.ffcEncode 0 0 0), some (.ffcAux 0), some .ffcClassify] := by decide +kernel

/-- The reserved codes of unit FFC (R93). -/
theorem test_decode_ffc_reserved :
    [0b011000, 0b011001, 0b011010, 0b011011, 0b011100, 0b011101, 0b011110, 0b011111].map (decodeTableWord 8) =
    [some .reserved011000, some .reserved011001, some .reserved011010, some .reserved011011, some .reserved011100, some .reserved011101, some .reserved011110, some .reserved011111] := by decide +kernel

/-- The codes of unit MBC, operands 0 (R91). -/
theorem test_decode_mbc_codes :
    [0b100000, 0b100001, 0b100010, 0b100011, 0b100101, 0b101000, 0b101001, 0b101010].map (decodeTableWord 8) =
    [some .mbcOpen, some .mbcClose, some (.mbcRx 0), some .mbcTimeout, some (.mbcReq 0 0 0 0), some .mbcCrcrst, some (.mbcCrcbyte 0), some .mbcCrcrd] := by decide +kernel

/-- The reserved codes of unit MBC (R93). -/
theorem test_decode_mbc_reserved :
    [0b100100, 0b100110, 0b100111, 0b101011, 0b101100, 0b101101, 0b101110, 0b101111].map (decodeTableWord 8) =
    [some .reserved100100, some .reserved100110, some .reserved100111, some .reserved101011, some .reserved101100, some .reserved101101, some .reserved101110, some .reserved101111] := by decide +kernel

/-- Every code of the reserved unit (R93). -/
theorem test_decode_reserved_unit : ∀ op : BitVec 4, decodeTableWord 8 (48 + op.toNat) = some (.reservedUnit11 op) := by decide +kernel

/-- The program P1 of 95, step 2: `CSF.PUSH EB 97 21 02`. -/
theorem test_decode_csf_push :
    decode cfg (.request ⟨0b000010, 0, 0, 0, 0, [0xEB, 0x97, 0x21, 0x02]⟩) = .ok (.csfPush [0xEB, 0x97, 0x21, 0x02]) := by rfl

/-- P4 step 4: `fe` is `c[0]` and `fc` is `a`; `c[7:1]`, `b`, `d`, `data` are ignored (93 U20). -/
theorem test_decode_csf_decode_filtered :
    decode cfg (.request ⟨0b000011, 0x13, 0xFF, 0xFFFF, 0xFFFF, [1]⟩) = .ok (.csfDecode true 0x13) := by rfl

/-- P4 step 3: `cmd` is `a`, the payload is `data`. -/
theorem test_decode_csf_encode :
    decode cfg (.request ⟨0b000101, 0x13, 0, 0, 0, [0x00]⟩) = .ok (.csfEncode 0x13 [0x00]) := by rfl

/-- P3 step 3: `a` = 02, `b` = 0123, `c` = 45. -/
theorem test_decode_ffc_encode :
    decode cfg (.request ⟨0b010101, 0x02, 0x45, 0x0123, 0, []⟩) = .ok (.ffcEncode 0x02 0x0123 0x45) := by rfl

/-- F53: `a` = FE gives `k` = 2. -/
theorem test_decode_ffc_aux :
    decode cfg (.request ⟨0b010110, 0xFE, 0, 0, 0, []⟩) = .ok (.ffcAux 2) := by rfl

/-- P5 step 7: `a` = 01, `c` = 01, `b` = 0010, `d` = 09C4. -/
theorem test_decode_mbc_req :
    decode cfg (.request ⟨0b100101, 0x01, 0x01, 0x0010, 0x09C4, []⟩) = .ok (.mbcReq 0x01 1 0x0010 0x09C4) := by rfl

/-- P5 step 6: the byte is `a`. -/
theorem test_decode_mbc_rx :
    decode cfg (.request ⟨0b100010, 0x87, 0, 0, 0, []⟩) = .ok (.mbcRx 0x87) := by rfl

/-- P5 step 1: the byte is `a`. -/
theorem test_decode_mbc_crcbyte :
    decode cfg (.request ⟨0b101001, 0x01, 0, 0, 0, []⟩) = .ok (.mbcCrcbyte 0x01) := by rfl

/-! ## Decoding: the wire formats (30_encoding R80 to R88) -/

/-- Frame `A` of 95. -/
theorem test_decode_wire_csf_frame :
    decode cfg (.wire .csfFrame .receive [0xEB, 0x97, 0x21, 0x02, 0x01, 0x02, 0xA8]) =
    .ok (.wireCsfFrame .receive 0x21 [0x01, 0x02]) := by decide +kernel

/-- Frame `A` with another checksum is no frame. -/
theorem test_decode_wire_csf_bad_checksum :
    decode cfg (.wire .csfFrame .receive [0xEB, 0x97, 0x21, 0x02, 0x01, 0x02, 0xA9]) =
    .error (.notOfFormat .csfFrame) := by decide +kernel

/-- E4 of 95: command 02, address 0123, value 45, trailer 0D. -/
theorem test_decode_wire_ffc_cmdframe :
    decode cfg (.wire .ffcCmdframe .receive [0xAA, 0x55, 0x08, 0x02, 0x01, 0x23, 0x45, 0x0D]) =
    .ok (.wireFfcCmdframe .receive 0x02 0x0123 0x45 ⟨0x08, 0x0D⟩) := by decide +kernel

/-- F22 of 95: the `LEN` byte of a received frame is not checked. -/
theorem test_decode_wire_ffc_cmdframe_len :
    decode cfg (.wire .ffcCmdframe .receive [0xAA, 0x55, 0x05, 0x02, 0x01, 0x23, 0x45, 0x0D]) =
    .ok (.wireFfcCmdframe .receive 0x02 0x0123 0x45 ⟨0x05, 0x0D⟩) := by decide +kernel

/-- E5 of 95: `FF F0`. -/
theorem test_decode_wire_ffc_sample :
    decode cfg (.wire .ffcSample .receive [0xFF, 0xF0]) =
    .ok (.wireFfcSample 0xFFF0) := by decide +kernel

/-- A sample is never transmitted (R84). -/
theorem test_decode_wire_ffc_sample_direction :
    decode cfg (.wire .ffcSample .transmit [0xFF, 0xF0]) =
    .error (.wrongDirection .ffcSample) := by decide +kernel

/-- `FFC_AUX[0]` (R85). -/
theorem test_decode_wire_aux_enter :
    decode cfg (.wire .ffcAuxEnter .transmit [0x01, 0x02, 0x03, 0x04, 0x05]) =
    .ok (.wireFfcAuxEnter) := by decide +kernel

/-- `FFC_AUX[1]` (R85). -/
theorem test_decode_wire_aux_exit :
    decode cfg (.wire .ffcAuxExit .transmit [0x06, 0x07, 0x08, 0x09, 0x0A]) =
    .ok (.wireFfcAuxExit) := by decide +kernel

/-- `FFC_AUX[2]` (R85). -/
theorem test_decode_wire_aux_suspend :
    decode cfg (.wire .ffcAuxSuspend .transmit [0x0B, 0x0C, 0x0D, 0x0E, 0x0F]) =
    .ok (.wireFfcAuxSuspend) := by decide +kernel

/-- `FFC_AUX[3]` (R85). -/
theorem test_decode_wire_aux_resume :
    decode cfg (.wire .ffcAuxResume .transmit [0x10, 0x11, 0x12, 0x13, 0x14]) =
    .ok (.wireFfcAuxResume) := by decide +kernel

/-- E6 of 95: the read request with its CRC. -/
theorem test_decode_wire_mbc_request :
    decode cfg (.wire .mbcRequest .transmit [0x01, 0x03, 0x00, 0x00, 0x00, 0x01, 0x84, 0x0A]) =
    .ok (.wireMbcRequest 0x01 .readHolding 0 1) := by decide +kernel

/-- M3 of 95. -/
theorem test_decode_wire_mbc_read :
    decode cfg (.wire .mbcRespRead .receive [0x01, 0x03, 0x04, 0x00, 0x01, 0xFF, 0xFE, 0x6B, 0x83]) =
    .ok (.wireMbcRespRead 0x01 0x03 [0x00, 0x01, 0xFF, 0xFE]) := by decide +kernel

/-- M5 of 95. -/
theorem test_decode_wire_mbc_write :
    decode cfg (.wire .mbcRespWrite .receive [0x01, 0x06, 0x00, 0x10, 0x09, 0xC4, 0x8F, 0xCC]) =
    .ok (.wireMbcRespWrite 0x01 0x06 0x0010 0x09C4) := by decide +kernel

/-- M4 of 95. -/
theorem test_decode_wire_mbc_exception :
    decode cfg (.wire .mbcRespException .receive [0x01, 0x83, 0x02, 0xC0, 0xF1]) =
    .ok (.wireMbcRespException 0x01 0x03 0x02) := by decide +kernel

/-- The row wire.FFC.cmdframe as one number, first byte in bits 7..0. -/
theorem test_table_word_cmdframe : decodeTableWord 64 0x0D452301020855AA =
    some (.wireFfcCmdframe .receive 0x02 0x0123 0x45 ⟨0x08, 0x0D⟩) := by decide +kernel

/-- The encoder writes the codes and operand places of R91. -/
theorem test_encode_operations :
    encode cfg (.csfDecode true 0x13) = .request ⟨0b000011, 0x13, 0x01, 0, 0, []⟩ ∧
    encode cfg (.mbcReq 0x11 2 0x006B 0x0003) = .request ⟨0b100101, 0x11, 0x02, 0x006B, 0x0003, []⟩ ∧
    encode cfg (.ffcAux 3) = .request ⟨0b010110, 0x03, 0, 0, 0, []⟩ := by decide +kernel

/-- No two rows of the operation map cover one code. -/
theorem test_operation_map_unambiguous :
    ∀ c : BitVec 6, (operationMap.filter fun row => row.covers c).length = 1 := by decide +kernel

/-! ## Well-formedness: one ill-formed term for each check -/

/-- V47: an empty burst. -/
theorem test_wf_csf_push_empty : Instr.wellFormed cfg (.csfPush []) = false := by decide +kernel

/-- A burst over `BURST_MAX`. -/
theorem test_wf_ffc_push_long : Instr.wellFormed { cfg with burstMax := some 1 } (.ffcPush [1, 2]) = false := by decide +kernel

/-- 256 payload bytes. -/
theorem test_wf_csf_encode_long : Instr.wellFormed cfg (.csfEncode 0 (List.replicate 256 0)) = false := by decide +kernel

/-- `kind` = 11. -/
theorem test_wf_mbc_req_kind : Instr.wellFormed cfg (.mbcReq 1 3 0 0) = false := by decide +kernel

/-- A frame of 256 payload bytes has no length byte. -/
theorem test_wf_wire_csf_frame_long : Instr.wellFormed cfg (.wireCsfFrame .receive 0 (List.replicate 256 0)) = false := by decide +kernel

/-- A transmitted trailer is the parameter. -/
theorem test_wf_wire_cmdframe_trailer :
    Instr.wellFormed cfg (.wireFfcCmdframe .transmit 0 0 0 ⟨0x08, 0x0E⟩) = false := by decide +kernel

/-- A transmitted `LEN` is `0x08`. -/
theorem test_wf_wire_cmdframe_len :
    Instr.wellFormed cfg (.wireFfcCmdframe .transmit 0 0 0 ⟨0x05, 0x0D⟩) = false := by decide +kernel

/-- 256 data bytes have no byte count. -/
theorem test_wf_wire_read_long : Instr.wellFormed cfg (.wireMbcRespRead 1 3 (List.replicate 256 0)) = false := by decide +kernel

/-- Terms that pass each check. -/
theorem test_wf_legal :
    Instr.wellFormed cfg (.csfPush [1]) = true ∧ Instr.wellFormed cfg (.csfEncode 0 []) = true ∧
    Instr.wellFormed cfg (.mbcReq 1 2 0 0) = true ∧ Instr.wellFormed cfg (.wireFfcCmdframe .transmit 0 0 0 ⟨0x08, 0x0D⟩) = true ∧
    Instr.wellFormed cfg (.wireFfcCmdframe .receive 0 0 0 ⟨0x05, 0x0E⟩) = true := by decide +kernel

/-! ## Unit CSF (95_test_vectors section 2) -/

/-- V9: garbage, then `B`. -/
theorem test_csf_v9 :
    csfAfter (.csfDecode false 0) (openState ([0x00, 0xFF, 0xEB, 0xEB, 0x97, 0x13, 0x01, 0x00, 0x96]) []) =
    ([], [frame 0x13 [0x00], .result ⟨.ok, .decoded false 1⟩]) := by decide +kernel

/-- V20: a changed `CMD`, a sync inside the failed candidate, then `A`. -/
theorem test_csf_v20 :
    csfAfter (.csfDecode false 0) (openState ([0xEB, 0x97, 0x50, 0x04, 0xEB, 0x97, 0x01, 0x00, 0x49] ++ frameA) []) =
    ([], [frame 0x21 [0x01, 0x02], .result ⟨.ok, .decoded false 1⟩]) := by decide +kernel

/-- V16: `LEN` changed to 05. -/
theorem test_csf_v16 :
    csfAfter (.csfDecode false 0) (openState ([0xEB, 0x97, 0x13, 0x05, 0x00, 0x96] ++ frameB) []) =
    ([], [frame 0x13 [0x00], .result ⟨.ok, .decoded false 1⟩]) := by decide +kernel

/-- V30: a `LEN` too large holds the good frame back. -/
theorem test_csf_v30 :
    csfAfter (.csfDecode false 0) (openState ([0xEB, 0x97, 0x13, 0x20, 0x00, 0x96] ++ frameB) []) =
    ([0xEB, 0x97, 0x13, 0x20, 0x00, 0x96, 0xEB, 0x97, 0x13, 0x01, 0x00, 0x96], [.result ⟨.ok, .decoded false 0⟩]) := by decide +kernel

/-- V25: the trailing `EB` survives this pass. -/
theorem test_csf_v25 :
    csfAfter (.csfDecode false 0) (openState (frameA ++ [0xEB]) []) =
    ([0xEB], [frame 0x21 [0x01, 0x02], .result ⟨.ok, .decoded false 1⟩]) := by decide +kernel

/-- V5: no sync, everything is cleared. -/
theorem test_csf_v5 :
    csfAfter (.csfDecode false 0) (openState ([0x11, 0x22, 0xEB]) []) =
    ([], [.result ⟨.ok, .decoded false 0⟩]) := by decide +kernel

/-- V33: the filter matches the second frame. -/
theorem test_csf_v33 :
    csfAfter (.csfDecode true 0x13) (openState (frameA ++ frameB) []) =
    ([], [frame 0x21 [0x01, 0x02], frame 0x13 [0x00], .result ⟨.ok, .decoded true 2⟩]) := by decide +kernel

/-- V34: without the filter nothing matches. -/
theorem test_csf_v34 :
    csfAfter (.csfDecode false 0x21) (openState (frameA ++ frameB) []) =
    ([], [frame 0x21 [0x01, 0x02], frame 0x13 [0x00], .result ⟨.ok, .decoded false 2⟩]) := by decide +kernel

/-- V44. -/
theorem test_csf_open_v44 :
    (after .csfOpen (openState [0xEB, 0x97] [])).csf = ⟨true, [], [status .ok], []⟩ := by decide +kernel

/-- The example of R123. -/
theorem test_csf_close_r123 :
    (after .csfClose (openState [0xEB, 0x97] [])).csf = ⟨false, [], [status .ok], []⟩ := by decide +kernel

/-- V42. -/
theorem test_csf_close_v42 : after .csfClose State.reset = raise .csf .linkUnavailable State.reset := by rfl

/-- V46. -/
theorem test_csf_push_v46 : csfAfter (.csfPush [0x97, 0x13]) (openState [0xEB] []) = ([0xEB, 0x97, 0x13], [status .ok]) := by decide +kernel

/-- V48: the operand test comes before the `open` test. -/
theorem test_csf_push_v48 : csfAfter (.csfPush []) State.reset = ([], [status .illegalOp]) := by decide +kernel

/-- V49: a depth of 260 with 258 bytes in the queue. -/
theorem test_csf_push_v49 :
    let s := openState (List.replicate 258 0) []
    let t := after (.csfPush [1, 2, 3]) { s with cfg := { cfg with qdepthCsf := some 260 } }
    t.csf.q.length = 258 ∧ t.csf.out = [status .queueFull] := by decide +kernel

/-- V45. -/
theorem test_csf_clear_v45 : csfAfter .csfClear (openState frameB []) = ([], [status .ok]) := by decide +kernel

/-- 95 section 2.1: a payload that holds the sync. -/
theorem test_csf_encode_sync_payload :
    (after (.csfEncode 0x40 [0xEB, 0x97, 0x01, 0x00]) (openState [1, 2] [])).csf =
    ⟨true, [1, 2], [status .ok], [0xEB, 0x97, 0x40, 0x04, 0xEB, 0x97, 0x01, 0x00, 0x49]⟩ := by decide +kernel

/-- 95 section 2.1: the checksum wraps. -/
theorem test_csf_encode_wraps :
    csfFrameBytes 0xFF [0xFF, 0xFF, 0xFF] = [0xEB, 0x97, 0xFF, 0x03, 0xFF, 0xFF, 0xFF, 0x81] := by decide +kernel

/-! ## Unit FFC (95_test_vectors section 3) -/

/-- CLASSIFY_F4 of 95. -/
theorem test_ffc_classify_f4 :
    ffcAfter .ffcClassify (openState [] [0xAA, 0x55, 0x08, 0x02, 0x01, 0x23, 0x45, 0x0D]) = ([], [.event (.cmdFrame 0x02 0x0123 0x45 0x08 0x0D), .result ⟨.ok, .consumed 8⟩]) := by decide +kernel

/-- CLASSIFY_F21 of 95. -/
theorem test_ffc_classify_f21 :
    ffcAfter .ffcClassify (openState [] [0xAA, 0x55, 0x08, 0x02, 0x01, 0x23, 0x45]) = ([0x08, 0x02, 0x01, 0x23, 0x45], [.event (.telemOutOfRange (-21931)), .result ⟨.ok, .consumed 2⟩]) := by decide +kernel

/-- F5 to F8: the ends of the band are inside. -/
theorem test_ffc_sample_band :
    [sampleEvents cfg 0x06 0x40, sampleEvents cfg 0x06 0x41, sampleEvents cfg 0xFC 0x40, sampleEvents cfg 0xFC 0x3F] =
    [[.telemSample 1600], [.telemOutOfRange 1601], [.telemSample (-960)], [.telemOutOfRange (-961)]] := by decide +kernel

/-- F3, F11, F12: only `FE FE` is no reading. -/
theorem test_ffc_sample_no_reading :
    [sampleEvents cfg 0xFE 0xFE, sampleEvents cfg 0xFE 0xFF, sampleEvents cfg 0xFF 0xFE] =
    [[], [.telemSample (-257)], [.telemSample (-2)]] := by decide +kernel

/-- F30 of 95. -/
theorem test_ffc_decode_f30 :
    ffcAfter .ffcDecode (openState [] [0x01, 0x90, 0xAA, 0x55, 0x08, 0x02, 0x01, 0x23, 0x45, 0x0D, 0xFE, 0xFE, 0x01, 0x91]) =
    ([], [.event (.telemSample 400), .event (.cmdFrame 0x02 0x0123 0x45 0x08 0x0D), .event (.telemSample 401),
      .result ⟨.ok, .units 4⟩]) := by decide +kernel

/-- F35 of 95: one stray byte in front, never resynchronised. -/
theorem test_ffc_decode_f35 :
    ffcAfter .ffcDecode (openState [] [0x90, 0xAA, 0x55, 0x08, 0x02, 0x01, 0x23, 0x45, 0x0D, 0x01, 0x90]) =
    ([0x90], [.event (.telemOutOfRange (-28502)), .event (.telemOutOfRange 21768), .event (.telemSample 513),
      .event (.telemOutOfRange 9029), .event (.telemOutOfRange 3329), .result ⟨.ok, .units 5⟩]) := by decide +kernel

/-- F56 of 95. -/
theorem test_ffc_open_f56 : (after .ffcOpen (openState [] [0x90])).ffc = ⟨true, [], [status .ok], []⟩ := by decide +kernel

/-- The example of R159. -/
theorem test_ffc_close_r159 : (after .ffcClose (openState [] [0xAA])).ffc = ⟨false, [], [status .ok], []⟩ := by decide +kernel

/-- The example of R157. -/
theorem test_ffc_push_r157 :
    ffcAfter (.ffcPush [0x02, 0x01]) (openState [] [0xAA, 0x55, 0x08]) = ([0xAA, 0x55, 0x08, 0x02, 0x01], [status .ok]) := by decide +kernel

/-- The example of R158. -/
theorem test_ffc_clear_r158 : ffcAfter .ffcClear (openState [] [0x01, 0x90, 0xAA]) = ([], [status .ok]) := by decide +kernel

/-- F50 of 95, with trailer 0D. -/
theorem test_ffc_encode_f50 :
    (after (.ffcEncode 0x02 0x0123 0x45) (openState [] [])).ffc.tx = [0xAA, 0x55, 0x08, 0x02, 0x01, 0x23, 0x45, 0x0D] := by decide +kernel

/-- F52 of 95, with an assumed constant. -/
theorem test_ffc_aux_f52 : (after (.ffcAux 2) (openState [] [])).ffc.tx = [11, 12, 13, 14, 15] := by decide +kernel

/-! ## Unit MBC (95_test_vectors section 4) -/

/-- 42_mbc_crc16 R181: the accumulator after each byte. -/
theorem test_crc_steps :
    crc16 [0x01] = 0x807E ∧ crc16 [0x01, 0x03] = 0x2140 ∧ crc16 [0x01, 0x03, 0x00, 0x00, 0x00, 0x01] = 0x0A84 := by decide +kernel

/-- 95 section 4.1: the ASCII digits 1 to 9. -/
theorem test_crc_check_string :
    crc16 [0x31, 0x32, 0x33, 0x34, 0x35, 0x36, 0x37, 0x38, 0x39] = 0x4B37 := by decide +kernel

/-- P5 step 3: opening keeps the CRC accumulator. -/
theorem test_mbc_open_r187 :
    (after .mbcOpen (State.reset.setMbc { Mbc.atReset with crc := 0x807E })).mbc =
    ⟨true, 0x807E, false, 0, 0, [], [status .ok], []⟩ := by decide +kernel

/-- The example of R188. -/
theorem test_mbc_close_r188 :
    (after .mbcClose (busyState 3 [0x01, 0x03])).mbc = ⟨false, 0xFFFF, false, 1, 3, [], [status .ok], []⟩ := by decide +kernel

/-- 95 section 4.2. -/
theorem test_mbc_req_read :
    let t := after (.mbcReq 0x11 0 0x006B 0x0003) (openState [] [])
    t.mbc.tx = [0x11, 0x03, 0x00, 0x6B, 0x00, 0x03, 0x76, 0x87] ∧ t.mbc.expFunc = 0x03 ∧ t.mbc.busy = true := by decide +kernel

/-- 95 section 4.2. -/
theorem test_mbc_req_coil :
    let t := after (.mbcReq 0x01 2 0x0001 0xFF00) (openState [] [])
    t.mbc.tx = [0x01, 0x05, 0x00, 0x01, 0xFF, 0x00, 0xDD, 0xFA] ∧ t.mbc.expFunc = 0x05 ∧ t.mbc.busy = true := by decide +kernel

/-- P6 step 2: the kind is tested before the link. -/
theorem test_mbc_req_kind_p6 : after (.mbcReq 1 3 0 0) State.reset = raise .mbc .illegalOp State.reset := by rfl

/-- M1 of 95. -/
theorem test_mbc_rx_m1 :
    let t := after (.mbcRx 0x87) (busyState 3 [0x01, 0x03, 0x02, 0x09, 0xC4, 0xBF])
    t.mbc.out = [.result ⟨.ok, .complete (.readOk 0x01 0x03 2 [0x09, 0xC4])⟩] ∧ t.mbc.r = [] ∧ t.mbc.busy = false := by decide +kernel

/-- M1 of 95, one byte before the last. -/
theorem test_mbc_rx_incomplete :
    let t := after (.mbcRx 0xBF) (busyState 3 [0x01, 0x03, 0x02, 0x09, 0xC4])
    t.mbc.out = [.result ⟨.ok, .incomplete⟩] ∧ t.mbc.r = [0x01, 0x03, 0x02, 0x09, 0xC4, 0xBF] ∧ t.mbc.busy = true := by decide +kernel

/-- M5 of 95. -/
theorem test_mbc_rx_m5 :
    let t := after (.mbcRx 0xCC) (busyState 6 [0x01, 0x06, 0x00, 0x10, 0x09, 0xC4, 0x8F])
    t.mbc.out = [.result ⟨.ok, .complete (.writeOk 0x01 0x06 0x0010 0x09C4)⟩] ∧ t.mbc.r = [] ∧ t.mbc.busy = false := by decide +kernel

/-- M7 of 95. -/
theorem test_mbc_rx_m7 :
    let t := after (.mbcRx 0x86) (busyState 3 [0x01, 0x03, 0x02, 0x09, 0xC4, 0xBF])
    t.mbc.out = [.result ⟨.modbusCrcError, .complete (.crcError 0x87BF 0x86BF)⟩] ∧ t.mbc.r = [] ∧ t.mbc.busy = false := by decide +kernel

/-- M9 of 95. -/
theorem test_mbc_rx_m9 :
    let t := after (.mbcRx 0xF3) (busyState 3 [0x01, 0x04, 0x02, 0x09, 0xC4, 0xBE])
    t.mbc.out = [.result ⟨.modbusFuncMismatch, .complete (.funcMismatch 0x04)⟩] ∧ t.mbc.r = [] ∧ t.mbc.busy = false := by decide +kernel

/-- M11 of 95. -/
theorem test_mbc_rx_m11 :
    let t := after (.mbcRx 0x61) (busyState 6 [0x01, 0x86, 0x03, 0x02])
    t.mbc.out = [.result ⟨.modbusException, .complete (.exception 0x86 0x03)⟩] ∧ t.mbc.r = [] ∧ t.mbc.busy = false := by decide +kernel

/-- M13 of 95: the slave test comes before the exception test. -/
theorem test_mbc_rx_m13 :
    let t := after (.mbcRx 0xF1) (busyState 3 [0x02, 0x83, 0x02, 0x30])
    t.mbc.out = [.result ⟨.modbusSlaveMismatch, .complete (.slaveMismatch 0x02)⟩] ∧ t.mbc.r = [] ∧ t.mbc.busy = false := by decide +kernel

/-- M15 of 95. -/
theorem test_mbc_rx_m15 :
    let t := after (.mbcRx 0x55) (busyState 6 [0x01, 0x03, 0x02, 0x09, 0xC4, 0xBF, 0x87])
    t.mbc.out = [.result ⟨.modbusCrcError, .complete (.crcError 0x0087 0x5587)⟩] ∧ t.mbc.r = [] ∧ t.mbc.busy = false := by decide +kernel

/-- M18 of 95. -/
theorem test_mbc_rx_m18 : (after (.mbcRx 1) (openState [] [])).mbc.out = [status .mbIdle] := by decide +kernel

/-- M10 of 95. -/
theorem test_mbc_timeout_m10 :
    let t := after .mbcTimeout (busyState 3 [0x01, 0x03, 0x02, 0x09])
    t.mbc.out = [.result ⟨.modbusTimeout, .received 4⟩] ∧ t.mbc.r = [] ∧ t.mbc.busy = false := by decide +kernel

/-- 95 section 4.1: the CRC operations with the link closed. -/
theorem test_crc_operations_closed :
    (afterAll [.mbcCrcrst, .mbcCrcbyte 0x01, .mbcCrcrd] State.reset).mbc.out =
    [status .ok, status .ok, .result ⟨.ok, .crc 0x807E⟩] := by decide +kernel

/-! ## Reserved codes, wire formats, steps -/

/-- V50. -/
theorem test_reserved_v50 : after .reserved000110 State.reset = raise .csf .illegalOp State.reset := by rfl

/-- V51. -/
theorem test_reserved_v51 : after (.reservedUnit11 0) State.reset = raise .reserved .illegalOp State.reset := by rfl

/-- Frame `B` arrives on the link. -/
theorem test_wire_csf_received : csfAfter (.wireCsfFrame .receive 0x13 [0x00]) (openState [] []) = (frameB, [status .ok]) := by decide +kernel

/-- Frame `B` leaves on the link. -/
theorem test_wire_csf_transmitted : (after (.wireCsfFrame .transmit 0x13 [0x00]) (openState [] [])).csf.tx = frameB := by decide +kernel

/-- R131: bytes of no format are pushed all the same; `IllegalOp` answers a transmission of them (log entry 9). -/
theorem test_step_bytes_of_no_format :
    step (present (.wire .csfFrame .receive [0x11, 0xEB]) (openState [] [])) =
      .next ((openState [] []).setCsf { (openState [0x11, 0xEB] []).csf with out := [status .ok] }) ∧
    step (present (.wire .csfFrame .transmit [0x11]) (openState [] [])) =
      .next ((openState [] []).setCsf { (openState [] []).csf with out := [status .illegalOp] }) := ⟨rfl, rfl⟩

/-- M1 of 95 as one frame. -/
theorem test_wire_read_response :
    (after (.wireMbcRespRead 1 3 [0x09, 0xC4]) (busyState 3 [])).mbc.out =
    List.replicate 6 (.result ⟨.ok, .incomplete⟩) ++ [.result ⟨.ok, .complete (.readOk 1 3 2 [0x09, 0xC4])⟩] := by decide +kernel

/-- The row CSF.OPEN as the first instruction after reset. -/
theorem test_step_runs_table_word : step (State.reset.withFetchWord 8 0x00) = .next (csfOpenBody State.reset) := by rfl

/-- After reset the block waits (R290). -/
theorem test_step_waits_after_reset : step State.reset = .next State.reset := by rfl

/-! ## Host sequences (95_test_vectors P4, P5) -/

/-- P4 schedule (a). -/
theorem test_send_with_ack_a : (sendWithAck 0x13 [0x00] [] [[], [.csfPush frameB]] (openState [] [])).1 = .ok := by decide +kernel

/-- P4 schedule (b): the link reader's pass takes the acknowledgement. -/
theorem test_send_with_ack_b :
    (sendWithAck 0x13 [0x00] [] [[.csfPush frameB, .csfDecode false 0], []] (openState [] [])).1 = .ackTimeout := by decide +kernel

/-- P5 steps 10 to 12. -/
theorem test_mb_transact_timeout :
    (mbTransact 1 .readHolding 0 1 [0x01, 0x03, 0x02, 0x09] (openState [] [])).1 = some ⟨.modbusTimeout, .received 4⟩ := by decide +kernel

/-! ## Witnesses: for each statement with hypotheses, a state and operands that meet them together -/

/-- Finite depths and a burst limit, each as small as 00_scope R6 and the frames allow. -/
def smallCfg : Config := { cfg with qdepthCsf := some 260, qdepthFfc := some 8, burstMax := some 260 }

/-- Every unit open under the small limits. -/
def smallState (c f : List Byte) : State := { openState c f with cfg := smallCfg }

/-- A state whose reset input is up. -/
def resetAsked : State := present (.request ⟨0, 0, 0, 0, 0, []⟩) (openState frameA [1, 2]) |>.setHost
  { HostSide.atReset with resetPin := true }

/-- Requests wait at two agents, and bytes of no response at a third. -/
def waitingState : State := State.reset.setHost { HostSide.atReset with
  pending := { Pending.nothing with
    csfReader := [.request ⟨0b000000, 0, 0, 0, 0, []⟩, .request ⟨0b000011, 0, 0, 0, 0, []⟩]
    mbcReader := [.wire .mbcRespRead .receive [0x01, 0x03]]
    mbcTransactor := [.request ⟨0b100000, 0, 0, 0, 0, []⟩] } }

/-- A sync that no index below the length shows stands nowhere. -/
theorem no_sync_from (q : List Byte) (k : Nat) (h : ∀ j, j < q.length → k ≤ j → ¬ syncAt q j) :
    ∀ j, k ≤ j → ¬ syncAt q j := by
  intro j hk hs
  have := syncAt_lt q j hs
  exact h j (by omega) hk hs

theorem witness_ResetGivesTheStatedValues : resetAsked.cfg.Ok ∧ resetAsked.host.resetPin = true := by decide +kernel

/-- One configuration beyond the boundary of each constraint. -/
theorem witness_BadConfigurationIsRefused :
    ¬ ({ cfg with telemMinRaw := 1601 } : Config).telemMinRaw ≤ ({ cfg with telemMinRaw := 1601 } : Config).telemMaxRaw ∧
    ¬ ({ cfg with mbFcWriteReg := 0x03 } : Config).mbFcReadHolding ≠ ({ cfg with mbFcWriteReg := 0x03 } : Config).mbFcWriteReg ∧
    ¬ ({ cfg with mbFcWriteCoil := 0x85 } : Config).mbFcWriteCoil.getLsbD 7 = false ∧
    (¬ ∀ d ∈ ({ cfg with qdepthCsf := some 259 } : Config).qdepthCsf, 260 ≤ d) ∧
    (¬ ∀ d ∈ ({ cfg with qdepthFfc := some 7 } : Config).qdepthFfc, 8 ≤ d) ∧
    ¬ 260 ≤ ({ cfg with rdepthMbc := 259 } : Config).rdepthMbc := by decide +kernel

theorem witness_StepRunsTheDecodedInstruction :
    let item := Item.request ⟨0b000101, 0x13, 0, 0, 0, [0x00]⟩
    let s := present item (openState [] [])
    s.cfg.Ok ∧ s.host.resetPin = false ∧ s.host.accepted = some item := by decide +kernel

theorem witness_StepRunsTheDecodedInstruction_decodes :
    decode cfg (.request ⟨0b000101, 0x13, 0, 0, 0, [0x00]⟩) = .ok (.csfEncode 0x13 [0x00]) := by rfl

theorem witness_StepAcceptsTheOldestRequestOfAnAgent :
    waitingState.cfg.Ok ∧ waitingState.host.resetPin = false ∧ waitingState.host.accepted = none ∧
    0 < waitingCount waitingState.host.pending := by decide +kernel

theorem witness_EveryInstructionGoesOn : State.reset.cfg.Ok := by decide +kernel

theorem witness_EveryRequestedOperationIsExecuted :
    (waitingState.cfg.Ok ∧ waitingState.host.resetPin = false ∧ waitingState.host.accepted = none) ∧
    waitingCount waitingState.host.pending = 4 ∧ waitingResults waitingState.host.pending = 5 := by decide +kernel

/-- Received bytes of no format of each unit, and bytes of no format to be transmitted. -/
theorem witness_ReceivedBytesReachTheirUnit :
    State.reset.cfg.Ok ∧ [WireFormat.csfFrame, .ffcSample, .mbcRespRead].all (fun format =>
      decide ((present (.wire format .receive [0x01]) State.reset).host.accepted = some (.wire format .receive [0x01]) ∧
        (present (.wire format .receive [0x01]) State.reset).host.resetPin = false)) = true ∧
    decode State.reset.cfg (.wire .csfFrame .transmit [0x01]) = .error (.notOfFormat .csfFrame) := by decide +kernel

/-- The two link states that the clauses of CsfOpenAndCloseEmptyTheQueue, ClearEmptiesTheQueueWithoutEvent,
CsfDecodeDeliversThePass, CsfFilterChangesOnlyMatched, FfcOpenAndCloseEmptyTheQueue,
FfcTransmitsCommandAndAuxiliaryFrames, FfcDecodeRepeatsTheClassifyStep and MbcOpenAndCloseAbandonTheTransaction ask
for. -/
theorem witness_link_states :
    ((openState [] []).csf.isOpen = true ∧ State.reset.csf.isOpen = false) ∧
    ((openState [] []).ffc.isOpen = true ∧ State.reset.ffc.isOpen = false) ∧
    ((openState [] []).mbc.isOpen = true ∧ State.reset.mbc.isOpen = false) := by decide +kernel

/-- A burst one over the limit, a push one over the depth, and one that fills the queue exactly. -/
theorem witness_CsfPushAppendsAllOrNothing :
    (∃ m, smallCfg.burstMax = some m ∧ m < (List.replicate 261 (0 : Byte)).length) ∧
    (let s := smallState (List.replicate 258 0) []
     let bs : List Byte := [1, 2, 3]
     bs ≠ [] ∧ (∀ m, s.cfg.burstMax = some m → bs.length ≤ m) ∧ s.csf.isOpen = true ∧
     ∃ d, s.cfg.qdepthCsf = some d ∧ d < s.csf.q.length + bs.length) ∧
    (let s := smallState (List.replicate 258 0) []
     let bs : List Byte := [1, 2]
     bs ≠ [] ∧ s.csf.isOpen = true ∧ ∀ d, s.cfg.qdepthCsf = some d → s.csf.q.length + bs.length ≤ d) := by
  refine ⟨⟨260, rfl, by decide +kernel⟩, ⟨by decide, ?_, rfl, 260, rfl, by decide +kernel⟩, by decide, rfl, ?_⟩
  · rintro m ⟨⟩; decide
  · rintro d ⟨⟩; decide +kernel

/-- A payload one over the limit, and one at it on a closed and on an open link. -/
theorem witness_CsfEncodeTransmitsTheChecksummedFrame :
    255 < (List.replicate 256 (0 : Byte)).length ∧
    ((List.replicate 255 (0 : Byte)).length ≤ 255 ∧ State.reset.csf.isOpen = false ∧
      (openState [] []).csf.isOpen = true) := by decide +kernel

theorem witness_CsfPassScansForTheFirstSync :
    (∀ i, ¬ syncAt [0x11, 0x22, csfSync1] i) ∧
    (syncAt [csfSync1, csfSync1, csfSync2] 1 ∧ ∀ j, j < 1 → ¬ syncAt [csfSync1, csfSync1, csfSync2] j) :=
  ⟨(syncIndex_none_iff _).1 (by decide), by decide⟩

/-- Four bytes, and five where the frame needs six. -/
theorem witness_CsfPassWaitsForAWholeFrame :
    (syncAt [0xEB, 0x97, 0x13, 0x01] 0 ∧ [0xEB, 0x97, 0x13, (0x01 : Byte)].length < 5) ∧
    (syncAt [0xEB, 0x97, 0x13, 0x01, 0x00] 0 ∧ [0xEB, 0x97, 0x13, 0x01, (0x00 : Byte)][3]? = some 0x01 ∧
      [0xEB, 0x97, 0x13, 0x01, (0x00 : Byte)].length < 5 + (0x01 : Byte).toNat) := by decide

/-- The frame `B`, with five and with four bytes behind it. -/
theorem witness_CsfPassYieldsACheckedFrame :
    ([0x00] : List Byte).length = (0x01 : Byte).toNat ∧
    (0x96 : Byte) = BitVec.ofNat 8
      (0x82 + (0x13 : Byte).toNat + (0x01 : Byte).toNat + (([0x00] : List Byte).map BitVec.toNat).sum) ∧
    5 ≤ (List.replicate 5 (0 : Byte)).length ∧ (List.replicate 4 (0 : Byte)).length < 5 := by decide

theorem witness_CsfPassDropsOneByteOnAMismatch :
    ([0x00] : List Byte).length = (0x01 : Byte).toNat ∧
    (0x97 : Byte) ≠ BitVec.ofNat 8
      (0x82 + (0x13 : Byte).toNat + (0x01 : Byte).toNat + (([0x00] : List Byte).map BitVec.toNat).sum) := by decide

theorem witness_CsfPassOnAFullQueueFreesSpace : 260 ≤ (List.replicate 260 (0 : Byte)).length := by decide +kernel

theorem witness_CsfPassDecodesAnyStreamOfFrames :
    ∀ f ∈ [Frame.mk 0x13 [0x00], Frame.mk 0x21 (List.replicate 255 0xEB)], f.payload.length ≤ 255 := by decide +kernel

theorem witness_CsfEncodeThenDecodeRoundTrip :
    let s := smallState [] []
    let payload : List Byte := List.replicate 255 0xEB
    (s.cfg.Ok ∧ s.csf.isOpen = true ∧ s.csf.q = [] ∧ payload.length ≤ 255) ∧
    ∀ m, s.cfg.burstMax = some m → payload.length + 5 ≤ m := by
  refine ⟨by decide +kernel, ?_⟩
  rintro m ⟨⟩
  decide +kernel

theorem witness_CsfGarbageInFrontOfAFrameIsDiscarded :
    (∀ i, ¬ syncAt [0x00, csfSync2, csfSync1] i) ∧ ([0x00] : List Byte).length ≤ 255 :=
  ⟨(syncIndex_none_iff _).1 (by decide), by decide⟩

/-- The first byte of `B` changed, and its last; nothing behind it, and another frame. -/
theorem witness_CsfOneChangedByteLosesOneFrame :
    (([0x00] : List Byte).length ≤ 255 ∧ frameB = csfFrameBytes 0x13 [0x00]) ∧
    ((csfFrameBytes 0x13 [0x00])[0]? ≠ some 0x00 ∧ ∀ j, 1 ≤ j → ¬ syncAt ((csfFrameBytes 0x13 [0x00]).set 0 0x00) j) ∧
    ((csfFrameBytes 0x13 [0x00])[5]? ≠ some 0x00 ∧ ∀ j, 1 ≤ j → ¬ syncAt ((csfFrameBytes 0x13 [0x00]).set 5 0x00) j) ∧
    frameA[0]? = some csfSync1 :=
  ⟨by decide +kernel, ⟨by decide +kernel, no_sync_from _ 1 (by decide +kernel)⟩,
    ⟨by decide +kernel, no_sync_from _ 1 (by decide +kernel)⟩, by decide⟩

theorem witness_CsfPartialFrameIsKeptFromTheSecondByteOn :
    ([0x00] : List Byte).length ≤ 255 ∧ 1 < ([0x00] : List Byte).length + 5 ∧ 2 < ([0x00] : List Byte).length + 5 := by decide

theorem witness_CsfSecondPassChangesNothing :
    (csfDecodePass frameB).1 = [] ∧ syncAt (csfDecodePass (frameB ++ frameA ++ [0xEB, 0x97, 1, 2, 3])).1 0 := by
  decide +kernel

theorem witness_FfcPushAppendsAllOrNothing :
    (∃ m, smallCfg.burstMax = some m ∧ m < (List.replicate 261 (0 : Byte)).length) ∧
    (let s := smallState [] (List.replicate 6 0)
     let bs : List Byte := [1, 2, 3]
     bs ≠ [] ∧ (∀ m, s.cfg.burstMax = some m → bs.length ≤ m) ∧ s.ffc.isOpen = true ∧
     ∃ d, s.cfg.qdepthFfc = some d ∧ d < s.ffc.q.length + bs.length) ∧
    (let s := smallState [] (List.replicate 6 0)
     let bs : List Byte := [1, 2]
     bs ≠ [] ∧ s.ffc.isOpen = true ∧ ∀ d, s.cfg.qdepthFfc = some d → s.ffc.q.length + bs.length ≤ d) := by
  refine ⟨⟨260, rfl, by decide +kernel⟩, ⟨by decide, ?_, rfl, 8, rfl, by decide⟩, by decide, rfl, ?_⟩
  · rintro m ⟨⟩; decide
  · rintro d ⟨⟩; decide

/-- A whole frame and nothing behind it; the sync pair with seven bytes buffered; one byte. -/
theorem witness_FfcClassifyTakesOneUnit :
    (openState [] []).ffc.isOpen = true ∧
    (openState [] [0xAA, 0x55, 8, 2, 1, 0x23, 0x45, 0x0D]).ffc.q = [0xAA, 0x55, 8, 2, 1, 0x23, 0x45, 0x0D] ++ [] ∧
    ((openState [] [0xAA, 0x55, 8, 2, 1, 0x23, 0x45]).ffc.q = 0xAA :: 0x55 :: [8, 2, 1, 0x23, 0x45] ∧
      ¬ ((0xAA : Byte) = 0xAA ∧ (0x55 : Byte) = 0x55 ∧ 6 ≤ ([8, 2, 1, 0x23, 0x45] : List Byte).length)) ∧
    (openState [] [0xFF]).ffc.q.length ≤ 1 := by decide +kernel

theorem witness_FfcDecodeRepeatsTheClassifyStep :
    ([0xFF] : List Byte).length < 2 ∧ 2 ≤ ([0xFF, 0xF0] : List Byte).length := by decide

theorem witness_FfcPassDecodesAnyStreamOfWholeUnits :
    ∀ u ∈ [(ffcFrameBytes 2 0x0123 0x45 ⟨0x05, 0x0D⟩, [Event.cmdFrame 2 0x0123 0x45 0x05 0x0D]),
        ([0xFF, 0xF0], sampleEvents cfg 0xFF 0xF0)],
      (∃ (cmd value lenByte trailer : Byte) (addr : Half),
        u = (ffcFrameBytes cmd addr value ⟨lenByte, trailer⟩, [.cmdFrame cmd addr value lenByte trailer])) ∨
      (∃ h l : Byte, ¬ (h = 0xAA ∧ l = 0x55) ∧ u = ([h, l], sampleEvents cfg h l)) := by
  intro u hu
  simp only [List.mem_cons, List.not_mem_nil, or_false] at hu
  rcases hu with rfl | rfl
  · exact .inl ⟨2, 0x45, 0x05, 0x0D, 0x0123, rfl⟩
  · exact .inr ⟨0xFF, 0xF0, by decide, rfl⟩

theorem witness_FfcEncodeThenClassifyRoundTrip :
    let s := smallState [] []
    (s.cfg.Ok ∧ s.ffc.isOpen = true ∧ s.ffc.q = []) ∧ ∀ m, s.cfg.burstMax = some m → 8 ≤ m := by
  refine ⟨by decide +kernel, ?_⟩
  rintro m ⟨⟩
  decide

theorem witness_FfcSampleIsEmittedExactlyInBand :
    ¬ ((0xAA : Byte) = 0xAA ∧ (0x55 : Byte) = 0x55 ∧ 6 ≤ ([1, 2, 3, 4, 5] : List Byte).length) ∧
    ¬ ((0x06 : Byte) = 0xAA ∧ (0x40 : Byte) = 0x55 ∧ 6 ≤ ([1, 2, 3, 4, 5, 6] : List Byte).length) := by decide

/-- One kind for each function code, on an open and a closed link. -/
theorem witness_MbcReqTransmitsAndBeginsATransaction :
    ((0 : BitVec 2) = 0 ∧ (0x03 : Byte) = (openState [] []).cfg.mbFcReadHolding) ∧
    ((1 : BitVec 2) = 1 ∧ (0x06 : Byte) = (openState [] []).cfg.mbFcWriteReg) ∧
    ((2 : BitVec 2) = 2 ∧ (0x05 : Byte) = (openState [] []).cfg.mbFcWriteCoil) ∧
    (openState [] []).mbc.isOpen = true ∧ State.reset.mbc.isOpen = false := by decide +kernel

theorem witness_MbcTimeoutEndsTheTransaction :
    State.reset.mbc.isOpen = false ∧ ((openState [] []).mbc.isOpen = true ∧ (openState [] []).mbc.busy = false) ∧
    ((busyState 3 [1]).mbc.isOpen = true ∧ (busyState 3 [1]).mbc.busy = true) := by decide +kernel

/-- The last byte of a response of five, and the one before it. -/
theorem witness_MbcRxCollectsToTheRequiredLength :
    (let s := busyState 6 [0x01, 0x86, 0x03, 0x02]
     let r := s.mbc.r ++ [0x61]
     s.mbc.isOpen = true ∧ s.mbc.busy = true ∧ 3 ≤ r.length ∧ r.length = mbRequired s.cfg s.mbc.expFunc r) ∧
    (let s := busyState 6 [0x01, 0x86, 0x03]
     let r := s.mbc.r ++ [0x02]
     s.mbc.isOpen = true ∧ s.mbc.busy = true ∧ ¬ (3 ≤ r.length ∧ r.length = mbRequired s.cfg s.mbc.expFunc r)) := by
  decide +kernel

/-- Complete responses of each verdict. -/
theorem witness_MbcRxCollectsToTheRequiredLength_verdicts :
    mbCheck cfg 1 6 [0x01, 0x86, 0x02, 0xC3, 0xA2] = .crcError 0xA1C3 0xA2C3 ∧
    mbCheck cfg 2 6 [0x01, 0x86, 0x02, 0xC3, 0xA1] = .slaveMismatch 0x01 ∧
    mbCheck cfg 1 6 [0x01, 0x86, 0x02, 0xC3, 0xA1] = .exception 0x86 0x02 ∧
    mbCheck cfg 1 5 [0x01, 0x06, 0x00, 0x10, 0x09, 0xC4, 0x8F, 0xCC] = .funcMismatch 0x06 ∧
    mbCheck cfg 1 3 [0x01, 0x03, 0x02, 0x09, 0xC4, 0xBF, 0x87] = .readOk 0x01 0x03 0x02 [0x09, 0xC4] ∧
    mbCheck cfg 1 6 [0x01, 0x06, 0x00, 0x10, 0x09, 0xC4, 0x8F, 0xCC] = .writeOk 0x01 0x06 0x0010 0x09C4 := by
  decide +kernel

/-- Each row of the length rule, at the two sides of bit 7. -/
theorem witness_MbcResponseLengthIsFixedByTheHeader :
    128 ≤ (0x80 : Byte).toNat ∧ (0x7F : Byte).toNat < 128 ∧ (0x03 : Byte) = cfg.mbFcReadHolding ∧
    (0x06 : Byte) ≠ cfg.mbFcReadHolding := by decide +kernel

/-- M1 of 95: the whole read response. -/
theorem witness_MbcVerdictTestsInOrder :
    mbRequired cfg 3 ([0x01, 0x03, 0x02, 0x09, 0xC4] ++ [0xBF, 0x87]) =
      ([0x01, 0x03, 0x02, 0x09, 0xC4] ++ [(0xBF : Byte), 0x87]).length := by decide +kernel

theorem witness_MbcWriteRequestEchoIsAccepted :
    (openState [] []).cfg.Ok ∧ (openState [] []).mbc.isOpen = true ∧ ((1 : BitVec 2) = 1 ∨ (1 : BitVec 2) = 2) ∧
    ((2 : BitVec 2) = 1 ∨ (2 : BitVec 2) = 2) := by decide +kernel

/-- A transaction of each kind, and data of the largest length. -/
theorem witness_WholeResponsesGetTheirVerdict :
    (let s := busyState 3 []
     s.cfg.Ok ∧ s.mbc.isOpen = true ∧ s.mbc.busy = true ∧ s.mbc.r = [] ∧ s.mbc.expSlave = 1 ∧
     (List.replicate 255 (0 : Byte)).length ≤ 255 ∧ s.mbc.expFunc = s.cfg.mbFcReadHolding ∧
     s.mbc.expFunc = (0#1 ++ (3 : BitVec 7) : BitVec 8)) ∧
    (let s := busyState 6 []
     s.cfg.Ok ∧ s.mbc.isOpen = true ∧ s.mbc.busy = true ∧ s.mbc.r = [] ∧ s.mbc.expSlave = 1 ∧
     s.mbc.expFunc ≠ s.cfg.mbFcReadHolding ∧ s.mbc.expFunc = (0#1 ++ (6 : BitVec 7) : BitVec 8)) := by decide +kernel

/-- Each link open, with room for exactly the frame, with room for one byte less, and a `BURST_MAX` below the frame. -/
theorem witness_WireFramesCrossTheLinkOfTheirUnit :
    (let s := smallState [] []
     let bs := csfFrameBytes 0 (List.replicate 255 0)
     let fs := ffcFrameBytes 0 0 0 ⟨0x05, 0⟩
     s.csf.isOpen = true ∧ s.ffc.isOpen = true ∧ s.mbc.isOpen = true ∧ (List.replicate 255 (0 : Byte)).length ≤ 255 ∧
     (∀ m, s.cfg.burstMax = some m → bs.length ≤ m) ∧
     (∀ d, s.cfg.qdepthCsf = some d → s.csf.q.length + bs.length ≤ d) ∧
     (∀ d, s.cfg.qdepthFfc = some d → s.ffc.q.length + fs.length ≤ d)) ∧
    (let s := smallState [0] [0]
     let bs := csfFrameBytes 0 (List.replicate 255 0)
     let fs := ffcFrameBytes 0 0 0 ⟨0x05, 0⟩
     (∃ d, s.cfg.qdepthCsf = some d ∧ d < s.csf.q.length + bs.length) ∧
     (∃ d, s.cfg.qdepthFfc = some d ∧ d < s.ffc.q.length + fs.length)) ∧
    (let c := { smallCfg with burstMax := some 1 }
     c.Ok ∧ ∃ m, c.burstMax = some m ∧ m < (sampleBytes 0).length ∧ m < (csfFrameBytes 0 []).length) := by
  refine ⟨⟨rfl, rfl, rfl, by decide +kernel, ?_, ?_, ?_⟩, ⟨⟨260, rfl, by decide +kernel⟩, 8, rfl, by decide⟩,
    by decide +kernel, 1, rfl, by decide, by decide +kernel⟩ <;> rintro m ⟨⟩ <;> decide +kernel

/-- Every unit closed, an operation and a frame of each; an open unit MBC without a transaction. -/
theorem witness_ClosedUnitAnswersLinkUnavailable :
    (Instr.csfPush [0x01]).wellFormed State.reset.cfg = true ∧ (Instr.ffcPush [0x01]).wellFormed State.reset.cfg = true ∧
    (Instr.mbcReq 1 2 0 0).wellFormed State.reset.cfg = true ∧
    ((Instr.wireCsfFrame .receive 1 []).wellFormed State.reset.cfg = true ∧
      ∀ m, State.reset.cfg.burstMax = some m → ([] : List Byte).length + 5 ≤ m) ∧
    (Instr.wireMbcRespRead 1 3 []).wellFormed State.reset.cfg = true ∧ State.reset.csf.isOpen = false ∧
    State.reset.ffc.isOpen = false ∧ State.reset.mbc.isOpen = false ∧
    (openState [] []).mbc.isOpen = true ∧ (openState [] []).mbc.busy = false := by
  refine ⟨by decide +kernel, by decide +kernel, by decide +kernel, ⟨by decide +kernel, ?_⟩, by decide +kernel⟩
  rintro m ⟨⟩

theorem witness_EveryOperationDeliversOneResult : isOperation (.csfDecode true 0x13) = true := by rfl

/-- Two states that differ in another unit. -/
theorem witness_UnitsAreIndependent :
    exec .csfClear (openState frameA []) = .next (csfClearBody (openState frameA [])) ∧
    exec .csfClear (openState frameA [1]) = .next (csfClearBody (openState frameA [1])) ∧
    (openState frameA []).cfg = (openState frameA [1]).cfg ∧ (openState frameA []).csf = (openState frameA [1]).csf := by
  exact ⟨rfl, rfl, rfl, rfl⟩

/-- A state of the invariant with a transaction in progress, and a step from it. -/
theorem witness_EveryStepKeepsTheInvariant :
    StateInv (present (.request ⟨0b100011, 0, 0, 0, 0, []⟩) (busyState 3 [0x01, 0x03, 0x02])) ∧
    step (present (.request ⟨0b100011, 0, 0, 0, 0, []⟩) (busyState 3 [0x01, 0x03, 0x02])) =
      .next (mbcTimeoutBody (retire (present (.request ⟨0b100011, 0, 0, 0, 0, []⟩) (busyState 3 [0x01, 0x03, 0x02])))) :=
  ⟨by decide +kernel, rfl⟩

theorem witness_StorageIsFifoAndStreamsOnlyGrow :
    exec .csfOpen State.reset = .next (csfOpenBody State.reset) := by rfl

theorem witness_DecodeOfEncodeIsTheInstruction :
    cfg.Ok ∧ (Instr.wireFfcCmdframe .transmit 2 0x0123 0x45 ⟨0x08, 0x0D⟩).wellFormed cfg = true := by decide +kernel

theorem witness_DecodedFramesAreEncodedFrames :
    decode cfg (.wire .csfFrame .receive frameA) = .ok (.wireCsfFrame .receive 0x21 [0x01, 0x02]) := by decide +kernel

/-- Two records of `MBC.REQ` that differ in every bit it does not name. -/
theorem witness_OperandBitsNotNamedAreIgnored :
    let r : Request := ⟨0b100101, 1, 0x01, 2, 3, []⟩
    let r' : Request := ⟨0b100101, 1, 0xFD, 2, 3, [0xFF]⟩
    r.opsel = r'.opsel ∧ (r.opsel = 0b000010 ∨ r.opsel = 0b010010 → r.data = r'.data) ∧
    (r.opsel = 0b000011 → r.a = r'.a ∧ r.c.getLsbD 0 = r'.c.getLsbD 0) ∧
    (r.opsel = 0b000101 → r.a = r'.a ∧ r.data = r'.data) ∧
    (r.opsel = 0b010101 → r.a = r'.a ∧ r.b = r'.b ∧ r.c = r'.c) ∧
    (r.opsel = 0b010110 → r.a.extractLsb' 0 2 = r'.a.extractLsb' 0 2) ∧
    (r.opsel = 0b100010 ∨ r.opsel = 0b101001 → r.a = r'.a) ∧
    (r.opsel = 0b100101 → r.a = r'.a ∧ r.c.extractLsb' 0 2 = r'.c.extractLsb' 0 2 ∧ r.b = r'.b ∧ r.d = r'.d) := by
  decide +kernel

/-- Records of the first and the last code of the operation map, and of reserved codes. -/
theorem witness_OperationMapSelectsTheOperation_and_ReservedCodes :
    (Request.mk 0b000000 1 2 3 4 [5]).opsel = 0b000000 ∧ (Request.mk 0b101010 1 2 3 4 [5]).opsel = 0b101010 ∧
    (Request.mk 0b000110 1 2 3 4 [5]).opsel = 0b000110 ∧
    (Request.mk 0b111111 1 2 3 4 [5]).opsel.extractLsb' 4 2 = 3 ∧
    (Request.mk 0b111111 1 2 3 4 [5]).opsel.extractLsb' 0 4 = 15 := by decide

theorem witness_SendWithAckDependsOnWhichPassDecodes :
    let s := smallState frameA []
    (s.cfg.Ok ∧ s.csf.isOpen = true ∧ (List.replicate 255 (0 : Byte)).length ≤ 255) ∧
    ∀ m, s.cfg.burstMax = some m → (List.replicate 255 (0 : Byte)).length + 5 ≤ m := by
  refine ⟨by decide +kernel, ?_⟩
  rintro m ⟨⟩
  decide +kernel

end Sys2Proof.Tests
end

section
/-! Proofs for spec/00_scope.md: the refusal of a bad configuration (R6), and what every operation delivers (R13, with
60_exceptions R250, R251). -/

namespace Sys2Proof.Machine

/-! ## The constraints of 00_scope R6 -/

/-- Settles O2: a configuration against the constraints is not `Ok`, and such a step is refused. -/
theorem badConfigurationIsRefused : Obligations.BadConfigurationIsRefused := by
  intro s hbad
  refine step_refuses s fun hok => hbad ?_
  obtain ⟨⟨-, hband, -⟩, ⟨hrw, hrc, hwc⟩, ⟨hr, hw, hc⟩, hqcsf, hqffc, hrdepth⟩ := hok
  exact ⟨hband, hrw, hrc, hwc, hr, hw, hc, hqcsf, hqffc, hrdepth⟩

/-! ## What an operation delivers -/

/-- The statuses of an operation that changes nothing but its unit's stream (60_exceptions R251). -/
abbrev inertStatuses : List Status := [.linkUnavailable, .illegalOp, .queueFull, .mbIdle]

/-- The statuses of a transaction of unit MBC that ends without success (60_exceptions R251). -/
abbrev failedTransactionStatuses : List Status :=
  [.modbusCrcError, .modbusSlaveMismatch, .modbusException, .modbusFuncMismatch, .modbusTimeout]

/-- From `s` to `t` unit `u` delivers events and then one result, and a failure changes only what its rule says
(00_scope R13, 60_exceptions R250, R251). -/
def DeliversOneResult (u : UnitId) (s t : State) : Prop :=
  ∃ (es : List Event) (r : Result),
    outOf u t = outOf u s ++ (es.map .event ++ [.result r]) ∧
    r.status ≠ .ackTimeout ∧
    (r.status ∈ inertStatuses → es = [] ∧ t = withOut u (outOf u t) s) ∧
    (r.status ∈ failedTransactionStatuses →
      es = [] ∧ t = { s with mbc := { s.mbc with r := [], busy := false, out := t.mbc.out } })

theorem deliversOneResult_raise (u : UnitId) (st : Status) (s : State) (h : st ∈ inertStatuses) :
    DeliversOneResult u s (raise u st s) := by
  refine ⟨[], ⟨st, .none⟩, deliver_out u [] _ s, ?_, fun _ => ⟨rfl, ?_⟩, fun hfailed => ?_⟩
  · rintro rfl
    exact absurd h (by decide)
  · rw [raise_withOut, withOut_outOf]
  · have hdisjoint : ∀ x ∈ inertStatuses, x ∉ failedTransactionStatuses := by decide
    exact absurd hfailed (hdisjoint st h)

/-- A success may come from any state `s'` that the operation's own work leads to without a delivery. -/
theorem deliversOneResult_ok (u : UnitId) (es : List Event) (fields : Fields) (s s' : State)
    (hout : outOf u s' = outOf u s) : DeliversOneResult u s (deliver u es ⟨.ok, fields⟩ s') := by
  refine ⟨es, ⟨.ok, fields⟩, ?_, Status.noConfusion, fun h => absurd h (by simp), fun h => absurd h (by simp)⟩
  rw [deliver_out, hout]

/-- The end of a transaction of unit MBC, whatever its outcome. -/
theorem deliversOneResult_transactionEnd (r : Result) (s : State)
    (hr : r.status = .ok ∨ r.status ∈ failedTransactionStatuses) :
    DeliversOneResult .mbc s (deliver .mbc [] r (s.setMbc { s.mbc with r := [], busy := false })) := by
  have hends : ∀ x : Status, x = .ok ∨ x ∈ failedTransactionStatuses → x ≠ .ackTimeout ∧ x ∉ inertStatuses := by
    rintro x (rfl | hx)
    · decide
    · revert x
      decide
  obtain ⟨hack, hinert⟩ := hends r.status hr
  exact ⟨[], r, deliver_out .mbc [] r _, hack, fun h => absurd h hinert, fun _ => ⟨rfl, rfl⟩⟩

theorem verdictStatus_ok_or_failed (v : Verdict) :
    verdictStatus v = .ok ∨ verdictStatus v ∈ failedTransactionStatuses := by
  cases v <;> simp [verdictStatus]

/-- The first tests add only the two refusals of 60_exceptions R263. -/
theorem deliversOneResult_guarded (u : UnitId) (legal : Bool) (body : State → State) (s : State)
    (h : DeliversOneResult u s (body s)) : DeliversOneResult u s (guarded u legal body s) := by
  obtain ⟨-, e⟩ | ⟨-, -, e⟩ | ⟨-, -, e⟩ := guarded_cases u legal body s <;> rw [e]
  · exact deliversOneResult_raise u .illegalOp s (by simp)
  · exact deliversOneResult_raise u .linkUnavailable s (by simp)
  · exact h

/-! ## The operations that can fail in their own work -/

theorem deliversOneResult_csfPushBody (bs : List Byte) (s : State) : DeliversOneResult .csf s (csfPushBody bs s) := by
  rw [csfPushBody]
  split
  · exact deliversOneResult_ok .csf [] .none s _ rfl
  · exact deliversOneResult_raise .csf .queueFull s (by simp)

theorem deliversOneResult_ffcPushBody (bs : List Byte) (s : State) : DeliversOneResult .ffc s (ffcPushBody bs s) := by
  rw [ffcPushBody]
  split
  · exact deliversOneResult_ok .ffc [] .none s _ rfl
  · exact deliversOneResult_raise .ffc .queueFull s (by simp)

theorem deliversOneResult_mbcRxBody (b : Byte) (s : State) : DeliversOneResult .mbc s (mbcRxBody b s) := by
  simp only [mbcRxBody]
  split
  · split
    · exact deliversOneResult_transactionEnd _ s (verdictStatus_ok_or_failed _)
    · exact deliversOneResult_ok .mbc [] .incomplete s _ rfl
  · exact deliversOneResult_raise .mbc .mbIdle s (by simp)

theorem deliversOneResult_mbcTimeoutBody (s : State) : DeliversOneResult .mbc s (mbcTimeoutBody s) := by
  rw [mbcTimeoutBody]
  split
  · exact deliversOneResult_transactionEnd _ s (.inr (by simp))
  · exact deliversOneResult_raise .mbc .mbIdle s (by simp)

theorem deliversOneResult_mbcReq (slave : Byte) (kind : BitVec 2) (addr data : Half) (s : State) :
    DeliversOneResult .mbc s (mbcReq slave kind addr data s) := by
  rw [mbcReq]
  split
  · exact deliversOneResult_guarded .mbc true _ s (deliversOneResult_ok .mbc [] .none s _ rfl)
  · exact deliversOneResult_raise .mbc .illegalOp s (by simp)

/-! ## Every operation -/

theorem exec_deliversOneResult (s : State) (i : Instr) (hi : isOperation i = true) :
    ∃ t, exec i s = .next t ∧ DeliversOneResult (instrUnit i) s t := by
  cases i with
  | csfOpen => exact ⟨_, rfl, deliversOneResult_ok .csf [] .none s _ rfl⟩
  | csfPush bs => exact ⟨_, rfl, deliversOneResult_guarded .csf _ _ s (deliversOneResult_csfPushBody bs s)⟩
  | csfClose | csfDecode | csfClear | csfEncode =>
    exact ⟨_, rfl, deliversOneResult_guarded .csf _ _ s (deliversOneResult_ok .csf _ _ s _ rfl)⟩
  | ffcOpen => exact ⟨_, rfl, deliversOneResult_ok .ffc [] .none s _ rfl⟩
  | ffcPush bs => exact ⟨_, rfl, deliversOneResult_guarded .ffc _ _ s (deliversOneResult_ffcPushBody bs s)⟩
  | ffcClose | ffcDecode | ffcClear | ffcEncode | ffcAux | ffcClassify =>
    exact ⟨_, rfl, deliversOneResult_guarded .ffc _ _ s (deliversOneResult_ok .ffc _ _ s _ rfl)⟩
  | mbcClose => exact ⟨_, rfl, deliversOneResult_guarded .mbc _ _ s (deliversOneResult_ok .mbc _ _ s _ rfl)⟩
  | mbcRx b => exact ⟨_, rfl, deliversOneResult_guarded .mbc _ _ s (deliversOneResult_mbcRxBody b s)⟩
  | mbcTimeout => exact ⟨_, rfl, deliversOneResult_guarded .mbc _ _ s (deliversOneResult_mbcTimeoutBody s)⟩
  | mbcReq slave kind addr data => exact ⟨_, rfl, deliversOneResult_mbcReq slave kind addr data s⟩
  | mbcOpen | mbcCrcrst | mbcCrcbyte | mbcCrcrd => exact ⟨_, rfl, deliversOneResult_ok .mbc [] _ s _ rfl⟩
  | reserved000110 | reserved000111 | reserved001000 | reserved001001 | reserved001010 | reserved001011
  | reserved001100 | reserved001101 | reserved001110 | reserved001111 | reserved011000 | reserved011001
  | reserved011010 | reserved011011 | reserved011100 | reserved011101 | reserved011110 | reserved011111
  | reserved100100 | reserved100110 | reserved100111 | reserved101011 | reserved101100 | reserved101101
  | reserved101110 | reserved101111 | reservedUnit11 =>
    exact ⟨_, rfl, deliversOneResult_raise _ .illegalOp s (by simp)⟩
  | wireCsfFrame | wireFfcCmdframe | wireFfcSample | wireFfcAuxEnter | wireFfcAuxExit | wireFfcAuxSuspend
  | wireFfcAuxResume | wireMbcRequest | wireMbcRespRead | wireMbcRespWrite | wireMbcRespException =>
    exact absurd hi Bool.false_ne_true

/-- Settles O47, by the cases of the instruction: each operation raises a status, or ends a transaction, or answers
`OK` after its own work. -/
theorem everyOperationDeliversOneResult : Obligations.EveryOperationDeliversOneResult := by
  intro s i hi
  obtain ⟨t, hexec, es, r, hdelivered⟩ := exec_deliversOneResult s i hi
  exact ⟨es, r, t, hexec, hdelivered⟩

end Sys2Proof.Machine
end

section
/-! Proofs for spec/10_state.md: the invariant of R32 after reset and over every step, the independence of the units
(R20), the answers of a closed unit (R24), and what a decode pass leaves in a queue (R31, R33). -/

namespace Sys2Proof.Machine

/-! ## A step and the instruction it runs -/

/-- Settles O3: the step runs the item, and the item is the instruction it decodes to. -/
theorem stepRunsTheDecodedInstruction : Obligations.StepRunsTheDecodedInstruction := by
  intro s item i hok hpin haccepted hdecode
  calc step s = runItem item (retire s) := step_runs s item hok hpin haccepted
    _ = exec i (retire s) := runItem_ok item i (retire s) hdecode

/-! ## The invariant, unit by unit -/

/-- Unit CSF's part of the invariant (R32). -/
structure CsfInv (cfg : Config) (u : Csf) : Prop where
  depth : withinLimit cfg.qdepthCsf u.q.length
  closed : u.isOpen = false → u.q = []

/-- Unit FFC's part of the invariant (R32). -/
structure FfcInv (cfg : Config) (u : Ffc) : Prop where
  depth : withinLimit cfg.qdepthFfc u.q.length
  closed : u.isOpen = false → u.q = []

/-- Unit MBC's part of the invariant (R32). -/
structure MbcInv (cfg : Config) (u : Mbc) : Prop where
  depth : u.r.length ≤ cfg.rdepthMbc
  closed : u.isOpen = false → u.r = [] ∧ u.busy = false
  idle : u.busy = false → u.r = []
  busy : u.busy = true → isRequestFunc cfg u.expFunc ∧ u.r.length < mbRequired cfg u.expFunc u.r

theorem stateInv_iff (s : State) :
    StateInv s ↔ s.cfg.Ok ∧ CsfInv s.cfg s.csf ∧ FfcInv s.cfg s.ffc ∧ MbcInv s.cfg s.mbc := by
  constructor
  · rintro ⟨hok, hwf, ⟨hcsf, hffc, hmbc⟩, hidle, hbusy⟩
    obtain ⟨dcsf, dffc, dmbc⟩ := of_decide_eq_true hwf
    exact ⟨hok, ⟨dcsf, hcsf⟩, ⟨dffc, hffc⟩, ⟨dmbc, hmbc, hidle, hbusy⟩⟩
  · rintro ⟨hok, ⟨dcsf, hcsf⟩, ⟨dffc, hffc⟩, ⟨dmbc, hmbc, hidle, hbusy⟩⟩
    exact ⟨hok, decide_eq_true ⟨dcsf, dffc, dmbc⟩, ⟨hcsf, hffc, hmbc⟩, hidle, hbusy⟩

theorem csfInv_empty (cfg : Config) (u : Csf) (hq : u.q = []) : CsfInv cfg u :=
  ⟨by rw [hq]; exact nil_within _, fun _ => hq⟩

theorem ffcInv_empty (cfg : Config) (u : Ffc) (hq : u.q = []) : FfcInv cfg u :=
  ⟨by rw [hq]; exact nil_within _, fun _ => hq⟩

/-- Without a transaction and with an empty buffer nothing else of unit MBC matters. -/
theorem mbcInv_idle (cfg : Config) (u : Mbc) (hr : u.r = []) (hb : u.busy = false) : MbcInv cfg u where
  depth := by rw [hr]; exact Nat.zero_le _
  closed _ := ⟨hr, hb⟩
  idle _ := hr
  busy h := absurd (hb.symm.trans h) Bool.false_ne_true

/-- A response still incomplete fits the buffer, whose depth is at least the length of the longest response. -/
theorem mbcInv_waiting (cfg : Config) (hok : cfg.Ok) (u : Mbc) (ho : u.isOpen = true) (hb : u.busy = true)
    (hf : isRequestFunc cfg u.expFunc) (hlen : u.r.length < mbRequired cfg u.expFunc u.r) : MbcInv cfg u where
  depth := by
    obtain ⟨-, -, -, -, -, hdepth⟩ := hok
    have hmax := (mbRequired_bounds cfg u.expFunc u.r).2
    omega
  closed h := absurd (h.symm.trans ho) Bool.false_ne_true
  idle h := absurd (h.symm.trans hb) Bool.false_ne_true
  busy _ := ⟨hf, hlen⟩

section
variable {s : State}

theorem stateInv_setCsf (h : StateInv s) (u : Csf) (hu : CsfInv s.cfg u) : StateInv (s.setCsf u) := by
  obtain ⟨hok, -, hffc, hmbc⟩ := (stateInv_iff s).1 h
  exact (stateInv_iff _).2 ⟨hok, hu, hffc, hmbc⟩

theorem stateInv_setFfc (h : StateInv s) (u : Ffc) (hu : FfcInv s.cfg u) : StateInv (s.setFfc u) := by
  obtain ⟨hok, hcsf, -, hmbc⟩ := (stateInv_iff s).1 h
  exact (stateInv_iff _).2 ⟨hok, hcsf, hu, hmbc⟩

theorem stateInv_setMbc (h : StateInv s) (u : Mbc) (hu : MbcInv s.cfg u) : StateInv (s.setMbc u) := by
  obtain ⟨hok, hcsf, hffc, -⟩ := (stateInv_iff s).1 h
  exact (stateInv_iff _).2 ⟨hok, hcsf, hffc, hu⟩

/-! ## What leaves the invariant alone -/

theorem stateInv_setHost (h : StateInv s) (u : HostSide) : StateInv (s.setHost u) := h

theorem stateInv_deliver (h : StateInv s) (u : UnitId) (es : List Event) (r : Result) : StateInv (deliver u es r s) := by
  cases u <;> exact h

theorem stateInv_transmit (h : StateInv s) (u : UnitId) (bs : List Byte) : StateInv (transmit u bs s) := by
  cases u <;> exact h

theorem stateInv_raise (h : StateInv s) (u : UnitId) (st : Status) : StateInv (raise u st s) :=
  stateInv_deliver h u [] ⟨st, .none⟩

/-- An operation's own work has to keep the invariant on an open unit only. -/
theorem stateInv_guarded (h : StateInv s) (u : UnitId) (legal : Bool) (body : State → State)
    (hbody : isOpen u s = true → StateInv (body s)) : StateInv (guarded u legal body s) := by
  obtain ⟨-, e⟩ | ⟨-, -, e⟩ | ⟨-, ho, e⟩ := guarded_cases u legal body s <;> rw [e]
  · exact stateInv_raise h u .illegalOp
  · exact stateInv_raise h u .linkUnavailable
  · exact hbody ho

/-- An operation that answers and transmits, and does nothing else. -/
theorem stateInv_encode (h : StateInv s) (u : UnitId) (legal : Bool) (bs : State → List Byte) :
    StateInv (guarded u legal (fun s => deliver u [] okResult (transmit u (bs s) s)) s) :=
  stateInv_guarded h u legal _ fun _ => stateInv_deliver (stateInv_transmit h u (bs s)) u [] okResult

/-! ## The operations of the queues -/

/-- Unit CSF with an empty queue, its link open or closed. -/
theorem stateInv_emptyCsf (h : StateInv s) (isOpen : Bool) :
    StateInv (deliver .csf [] okResult (s.setCsf { s.csf with q := [], isOpen := isOpen })) :=
  stateInv_deliver (stateInv_setCsf h _ (csfInv_empty _ _ rfl)) .csf [] okResult

/-- Unit FFC with an empty queue, its link open or closed. -/
theorem stateInv_emptyFfc (h : StateInv s) (isOpen : Bool) :
    StateInv (deliver .ffc [] okResult (s.setFfc { s.ffc with q := [], isOpen := isOpen })) :=
  stateInv_deliver (stateInv_setFfc h _ (ffcInv_empty _ _ rfl)) .ffc [] okResult

theorem stateInv_csfTail (h : StateInv s) (q : List Byte) (hq : q <:+ s.csf.q) :
    StateInv (s.setCsf { s.csf with q := q }) := by
  obtain ⟨-, ⟨hdepth, hclosed⟩, -⟩ := (stateInv_iff s).1 h
  refine stateInv_setCsf h _ ⟨suffix_within _ _ _ hq hdepth, fun hc => ?_⟩
  rw [hclosed hc] at hq
  exact List.suffix_nil.1 hq

theorem stateInv_ffcTail (h : StateInv s) (q : List Byte) (hq : q <:+ s.ffc.q) :
    StateInv (s.setFfc { s.ffc with q := q }) := by
  obtain ⟨-, -, ⟨hdepth, hclosed⟩, -⟩ := (stateInv_iff s).1 h
  refine stateInv_setFfc h _ ⟨suffix_within _ _ _ hq hdepth, fun hc => ?_⟩
  rw [hclosed hc] at hq
  exact List.suffix_nil.1 hq

theorem stateInv_csfPush (h : StateInv s) (bs : List Byte) : StateInv (csfPush bs s) := by
  refine stateInv_guarded h .csf _ _ fun ho => ?_
  rw [csfPushBody]
  split
  · next hfits =>
    refine stateInv_deliver (stateInv_setCsf h _ ⟨qAppend_within _ _ _ hfits, fun hc => ?_⟩) .csf [] okResult
    exact absurd (hc.symm.trans ho) Bool.false_ne_true
  · exact stateInv_raise h .csf .queueFull

theorem stateInv_ffcPush (h : StateInv s) (bs : List Byte) : StateInv (ffcPush bs s) := by
  refine stateInv_guarded h .ffc _ _ fun ho => ?_
  rw [ffcPushBody]
  split
  · next hfits =>
    refine stateInv_deliver (stateInv_setFfc h _ ⟨qAppend_within _ _ _ hfits, fun hc => ?_⟩) .ffc [] okResult
    exact absurd (hc.symm.trans ho) Bool.false_ne_true
  · exact stateInv_raise h .ffc .queueFull

/-! ## The operations of unit MBC -/

/-- The end of a transaction, with any answer and the link open or closed. -/
theorem stateInv_transactionEnd (h : StateInv s) (isOpen : Bool) (r : Result) :
    StateInv (deliver .mbc [] r (s.setMbc { s.mbc with r := [], busy := false, isOpen := isOpen })) :=
  stateInv_deliver (stateInv_setMbc h _ (mbcInv_idle _ _ rfl rfl)) .mbc [] r

theorem stateInv_crcOperation (h : StateInv s) (value : Half) (r : Result) : StateInv (crcOperation value r s) :=
  stateInv_deliver (show StateInv (s.setMbc { s.mbc with crc := value }) from h) .mbc [] r

end

/-- A byte that does not complete a response leaves it short of its length: the required length is at least five, and
fixed once three bytes are there. -/
theorem length_lt_mbRequired_append (cfg : Config) (expFunc : Byte) (r : List Byte) (b : Byte)
    (hlt : r.length < mbRequired cfg expFunc r) (hc : mbComplete cfg expFunc (r ++ [b]) = false) :
    (r ++ [b]).length < mbRequired cfg expFunc (r ++ [b]) := by
  have hmin := (mbRequired_bounds cfg expFunc (r ++ [b])).1
  have hne : ¬ (3 ≤ (r ++ [b]).length ∧ (r ++ [b]).length = mbRequired cfg expFunc (r ++ [b])) := by
    rw [← mbComplete_iff, hc]
    exact Bool.false_ne_true
  rw [List.length_append, List.length_singleton] at hne ⊢
  by_cases h3 : 3 ≤ r.length
  · rw [mbRequired_append cfg expFunc r [b] h3] at hne ⊢
    omega
  · omega

section
variable {s : State}

theorem stateInv_mbcRx (h : StateInv s) (b : Byte) : StateInv (mbcRx b s) := by
  refine stateInv_guarded h .mbc true _ fun ho => ?_
  obtain ⟨hok, -, -, hmbc⟩ := (stateInv_iff s).1 h
  cases hb : s.mbc.busy with
  | false =>
    rw [mbcRxBody_idle b s hb]
    exact stateInv_raise h .mbc .mbIdle
  | true =>
    obtain ⟨hfunc, hlt⟩ := hmbc.busy hb
    cases hc : mbComplete s.cfg s.mbc.expFunc (s.mbc.r ++ [b]) with
    | false =>
      rw [mbcRxBody_more b s hb hc]
      exact stateInv_setMbc h _ (mbcInv_waiting _ hok _ ho hb hfunc (length_lt_mbRequired_append _ _ _ b hlt hc))
    | true =>
      rw [mbcRxBody_last b s hb hc]
      exact stateInv_setMbc h _ (mbcInv_idle _ _ rfl rfl)

theorem stateInv_mbcRxAll (h : StateInv s) (bs : List Byte) : StateInv (mbcRxAll bs s) := by
  induction bs generalizing s with
  | nil => exact h
  | cons b bs ih => exact ih (stateInv_mbcRx h b)

theorem isRequestFunc_funcOfKind (cfg : Config) (k : ReqKind) : isRequestFunc cfg (funcOfKind cfg k) := by
  cases k with
  | readHolding => exact .inl rfl
  | writeReg => exact .inr (.inl rfl)
  | writeCoil => exact .inr (.inr rfl)

theorem stateInv_mbcReq (h : StateInv s) (slave : Byte) (kind : BitVec 2) (addr data : Half) :
    StateInv (mbcReq slave kind addr data s) := by
  rw [mbcReq]
  split
  · next k _ =>
    refine stateInv_guarded h .mbc true _ fun ho => ?_
    have hbegun : MbcInv s.cfg
        { s.mbc with expSlave := slave, expFunc := funcOfKind s.cfg k, r := [], busy := true } :=
      mbcInv_waiting _ h.1 _ ho rfl (isRequestFunc_funcOfKind s.cfg k)
        (Nat.lt_of_lt_of_le (Nat.succ_pos 4) (mbRequired_bounds _ _ _).1)
    exact stateInv_deliver (stateInv_transmit (stateInv_setMbc h _ hbegun) .mbc _) .mbc [] okResult
  · exact stateInv_raise h .mbc .illegalOp

theorem stateInv_mbcTimeoutBody (h : StateInv s) : StateInv (mbcTimeoutBody s) := by
  rw [mbcTimeoutBody]
  split
  · exact stateInv_transactionEnd h s.mbc.isOpen _
  · exact stateInv_raise h .mbc .mbIdle

/-! ## Every instruction and every step -/

theorem exec_stateInv (h : StateInv s) (i : Instr) : ∃ t, exec i s = .next t ∧ StateInv t := by
  cases i with
  | csfOpen => exact ⟨_, rfl, stateInv_emptyCsf h true⟩
  | csfClose => exact ⟨_, rfl, stateInv_guarded h .csf true _ fun _ => stateInv_emptyCsf h false⟩
  | csfClear => exact ⟨_, rfl, stateInv_guarded h .csf true _ fun _ => stateInv_emptyCsf h s.csf.isOpen⟩
  | csfDecode fe fc =>
    exact ⟨_, rfl, stateInv_guarded h .csf true _ fun _ =>
      stateInv_deliver (stateInv_csfTail h _ (csfDecodePass_suffix _)) .csf _ _⟩
  | csfPush bs => exact ⟨_, rfl, stateInv_csfPush h bs⟩
  | csfEncode => exact ⟨_, rfl, stateInv_encode h .csf _ _⟩
  | ffcOpen => exact ⟨_, rfl, stateInv_emptyFfc h true⟩
  | ffcClose => exact ⟨_, rfl, stateInv_guarded h .ffc true _ fun _ => stateInv_emptyFfc h false⟩
  | ffcClear => exact ⟨_, rfl, stateInv_guarded h .ffc true _ fun _ => stateInv_emptyFfc h s.ffc.isOpen⟩
  | ffcDecode =>
    exact ⟨_, rfl, stateInv_guarded h .ffc true _ fun _ =>
      stateInv_deliver (stateInv_ffcTail h _ (ffcDecodePass_suffix _ _)) .ffc _ _⟩
  | ffcClassify =>
    exact ⟨_, rfl, stateInv_guarded h .ffc true _ fun _ =>
      stateInv_deliver (stateInv_ffcTail h _ (classifyQueue_suffix _ _)) .ffc _ _⟩
  | ffcPush bs => exact ⟨_, rfl, stateInv_ffcPush h bs⟩
  | ffcEncode | ffcAux | wireFfcAuxEnter | wireFfcAuxExit | wireFfcAuxSuspend | wireFfcAuxResume =>
    exact ⟨_, rfl, stateInv_encode h .ffc true _⟩
  | mbcOpen => exact ⟨_, rfl, stateInv_transactionEnd h true okResult⟩
  | mbcClose => exact ⟨_, rfl, stateInv_guarded h .mbc true _ fun _ => stateInv_transactionEnd h false okResult⟩
  | mbcRx b => exact ⟨_, rfl, stateInv_mbcRx h b⟩
  | mbcTimeout => exact ⟨_, rfl, stateInv_guarded h .mbc true _ fun _ => stateInv_mbcTimeoutBody h⟩
  | mbcReq | wireMbcRequest => exact ⟨_, rfl, stateInv_mbcReq h _ _ _ _⟩
  | mbcCrcrst | mbcCrcbyte | mbcCrcrd => exact ⟨_, rfl, stateInv_crcOperation h _ _⟩
  | reserved000110 | reserved000111 | reserved001000 | reserved001001 | reserved001010 | reserved001011
  | reserved001100 | reserved001101 | reserved001110 | reserved001111 | reserved011000 | reserved011001
  | reserved011010 | reserved011011 | reserved011100 | reserved011101 | reserved011110 | reserved011111
  | reserved100100 | reserved100110 | reserved100111 | reserved101011 | reserved101100 | reserved101101
  | reserved101110 | reserved101111 | reservedUnit11 => exact ⟨_, rfl, stateInv_raise h _ .illegalOp⟩
  | wireCsfFrame dir =>
    cases dir with
    | receive => exact ⟨_, rfl, stateInv_csfPush h _⟩
    | transmit => exact ⟨_, rfl, stateInv_encode h .csf _ _⟩
  | wireFfcCmdframe dir =>
    cases dir with
    | receive => exact ⟨_, rfl, stateInv_ffcPush h _⟩
    | transmit => exact ⟨_, rfl, stateInv_encode h .ffc true _⟩
  | wireFfcSample => exact ⟨_, rfl, stateInv_ffcPush h _⟩
  | wireMbcRespRead | wireMbcRespWrite | wireMbcRespException => exact ⟨_, rfl, stateInv_mbcRxAll h _⟩

theorem stateInv_carryBytes (h : StateInv s) (item : Item) : StateInv (carryBytes item s) := by
  match item with
  | .request _ => exact stateInv_raise h .reserved .illegalOp
  | .wire format .transmit _ => exact stateInv_raise h (formatUnit format) .illegalOp
  | .wire format .receive bs =>
    show StateInv (receiveBytes (formatUnit format) bs s)
    cases formatUnit format with
    | csf => exact stateInv_csfPush h bs
    | ffc => exact stateInv_ffcPush h bs
    | mbc => exact stateInv_mbcRxAll h bs
    | reserved => exact h

theorem runItem_stateInv (h : StateInv s) (item : Item) : ∃ t, runItem item s = .next t ∧ StateInv t := by
  cases hd : decode s.cfg item with
  | ok i =>
    rw [runItem_ok item i s hd]
    exact exec_stateInv h i
  | error e => exact ⟨_, runItem_error item e s hd, stateInv_carryBytes h item⟩

/-- Reset establishes the invariant from any state with legal parameters. -/
theorem stateInv_resetBlock (hok : s.cfg.Ok) : StateInv (resetBlock s) :=
  (stateInv_iff _).2 ⟨hok, csfInv_empty _ _ rfl, ffcInv_empty _ _ rfl, mbcInv_idle _ _ rfl rfl⟩

theorem stateInv_acceptNext (h : StateInv s) : StateInv (acceptNext s) := by
  rw [acceptNext]
  split
  · exact h
  · exact stateInv_setHost h _

theorem step_stateInv (h : StateInv s) : ∃ t, step s = .next t ∧ StateInv t := by
  have hok : s.cfg.Ok := h.1
  cases hp : s.host.resetPin with
  | true => exact ⟨_, step_reset s hok hp, stateInv_resetBlock hok⟩
  | false =>
    cases ha : s.host.accepted with
    | some item =>
      rw [step_runs s item hok hp ha]
      exact runItem_stateInv (stateInv_setHost h _) item
    | none => exact ⟨_, step_accepts s hok hp ha, stateInv_acceptNext h⟩

end

theorem standard_ok : Config.standard.Ok := by decide

/-- Settles O49: the reset state is what the reset input makes of itself. -/
theorem resetStateMeetsTheInvariant : Obligations.ResetStateMeetsTheInvariant :=
  stateInv_resetBlock (s := State.reset) standard_ok

/-- Settles O50, by the cases of the step and of the instruction it runs. -/
theorem everyStepKeepsTheInvariant : Obligations.EveryStepKeepsTheInvariant := by
  intro s t hs hstep
  obtain ⟨t', hstep', ht'⟩ := step_stateInv hs
  cases hstep.symm.trans hstep'
  exact ht'

/-! ## An operation acts on its own unit alone -/

/-- `s` with unit `u` of `t`. -/
def withUnitOf (u : UnitId) (t s : State) : State :=
  match u with
  | .csf => s.setCsf t.csf
  | .ffc => s.setFfc t.ffc
  | .mbc => s.setMbc t.mbc
  | .reserved => s.setHost t.host

/-- The parameters and unit `u` of `s`, everything else as after reset. -/
def unitAlone (u : UnitId) (s : State) : State := withUnitOf u s { State.reset with cfg := s.cfg }

/-- `f` changes unit `u` alone, and changes it as it would if the rest of the machine were as after reset
(10_state R20). -/
def ActsOnUnit (u : UnitId) (f : State → State) : Prop := ∀ s, f s = withUnitOf u (f (unitAlone u s)) s

@[simp] theorem unitAlone_cfg (u : UnitId) (s : State) : (unitAlone u s).cfg = s.cfg := by cases u <;> rfl

theorem unitAlone_isOpen (u : UnitId) (s : State) : isOpen u (unitAlone u s) = isOpen u s := by cases u <;> rfl

section
variable {u : UnitId} {f g : State → State}

/-- What acts on a unit alone commutes with looking at that unit alone. -/
theorem ActsOnUnit.unitAlone_comm (hf : ActsOnUnit u f) (s : State) : unitAlone u (f s) = f (unitAlone u s) := by
  have hgraft : ∀ t, unitAlone u (withUnitOf u t s) = withUnitOf u t (unitAlone u s) := by cases u <;> exact fun _ => rfl
  have htwice : unitAlone u (unitAlone u s) = unitAlone u s := by cases u <;> rfl
  have hrun := hf (unitAlone u s)
  rw [htwice] at hrun
  calc unitAlone u (f s) = withUnitOf u (f (unitAlone u s)) (unitAlone u s) := by rw [hf s, hgraft]
    _ = f (unitAlone u s) := hrun.symm

theorem ActsOnUnit.comp (hg : ActsOnUnit u g) (hf : ActsOnUnit u f) : ActsOnUnit u (fun s => g (f s)) := by
  intro s
  have hgraft : ∀ t t', withUnitOf u t (withUnitOf u t' s) = withUnitOf u t s := by cases u <;> exact fun _ _ => rfl
  calc g (f s) = withUnitOf u (g (unitAlone u (f s))) (f s) := hg (f s)
    _ = withUnitOf u (g (f (unitAlone u s))) (f s) := by rw [hf.unitAlone_comm]
    _ = withUnitOf u (g (f (unitAlone u s))) s := by rw [hf s, hgraft]

theorem ActsOnUnit.ite (c : State → Bool) (hc : ∀ s, c (unitAlone u s) = c s) (hf : ActsOnUnit u f)
    (hg : ActsOnUnit u g) : ActsOnUnit u (fun s => if c s then f s else g s) := by
  intro s
  cases h : c s with
  | true => simpa [hc, h] using hf s
  | false => simpa [hc, h] using hg s

theorem actsOnUnit_raise (u : UnitId) (st : Status) : ActsOnUnit u (raise u st) := by cases u <;> exact fun _ => rfl

theorem ActsOnUnit.guarded (legal : Config → Bool) (hf : ActsOnUnit u f) :
    ActsOnUnit u (fun s => guarded u (legal s.cfg) f s) :=
  .ite (fun s => legal s.cfg) (fun s => congrArg legal (unitAlone_cfg u s))
    (.ite (isOpen u) (unitAlone_isOpen u) hf (actsOnUnit_raise u .linkUnavailable)) (actsOnUnit_raise u .illegalOp)

end

theorem actsOnUnit_csfPush (bs : List Byte) : ActsOnUnit .csf (csfPush bs) :=
  .guarded (fun cfg => burstLegal cfg bs)
    (.ite (fun s => fits s.cfg.qdepthCsf s.csf.q.length bs.length) (fun _ => rfl) (fun _ => rfl)
      (actsOnUnit_raise .csf .queueFull))

theorem actsOnUnit_ffcPush (bs : List Byte) : ActsOnUnit .ffc (ffcPush bs) :=
  .guarded (fun cfg => burstLegal cfg bs)
    (.ite (fun s => fits s.cfg.qdepthFfc s.ffc.q.length bs.length) (fun _ => rfl) (fun _ => rfl)
      (actsOnUnit_raise .ffc .queueFull))

theorem actsOnUnit_mbcRx (b : Byte) : ActsOnUnit .mbc (mbcRx b) :=
  .guarded (fun _ => true)
    (.ite (fun s => s.mbc.busy) (fun _ => rfl)
      (.ite (fun s => mbComplete s.cfg s.mbc.expFunc (qAppend s.mbc.r [b])) (fun _ => rfl) (fun _ => rfl)
        (fun _ => rfl))
      (actsOnUnit_raise .mbc .mbIdle))

theorem actsOnUnit_mbcRxAll (bs : List Byte) : ActsOnUnit .mbc (mbcRxAll bs) := by
  induction bs with
  | nil => exact fun _ => rfl
  | cons b bs ih => exact ih.comp (actsOnUnit_mbcRx b)

theorem actsOnUnit_mbcTimeoutBody : ActsOnUnit .mbc mbcTimeoutBody :=
  .ite (fun s => s.mbc.busy) (fun _ => rfl) (fun _ => rfl) (actsOnUnit_raise .mbc .mbIdle)

theorem actsOnUnit_mbcReq (slave : Byte) (kind : BitVec 2) (addr data : Half) :
    ActsOnUnit .mbc (mbcReq slave kind addr data) := by
  unfold mbcReq
  cases kindOfCode kind with
  | some k => exact .guarded (fun _ => true) (fun _ => rfl)
  | none => exact actsOnUnit_raise .mbc .illegalOp

theorem exec_actsOnUnit (i : Instr) : ∃ f, ActsOnUnit (instrUnit i) f ∧ ∀ s, exec i s = .next (f s) := by
  cases i with
  | csfOpen => exact ⟨csfOpenBody, fun _ => rfl, fun _ => rfl⟩
  | ffcOpen => exact ⟨ffcOpenBody, fun _ => rfl, fun _ => rfl⟩
  | mbcOpen => exact ⟨mbcOpenBody, fun _ => rfl, fun _ => rfl⟩
  | csfClose | csfDecode | csfClear | ffcClose | ffcDecode | ffcClear | ffcEncode | ffcAux | ffcClassify | mbcClose
  | wireFfcAuxEnter | wireFfcAuxExit | wireFfcAuxSuspend | wireFfcAuxResume =>
    exact ⟨_, .guarded (fun _ => true) (fun _ => rfl), fun _ => rfl⟩
  | csfEncode _ payload => exact ⟨_, .guarded (fun _ => payloadLegal payload) (fun _ => rfl), fun _ => rfl⟩
  | csfPush bs => exact ⟨_, actsOnUnit_csfPush bs, fun _ => rfl⟩
  | ffcPush bs => exact ⟨_, actsOnUnit_ffcPush bs, fun _ => rfl⟩
  | mbcRx b => exact ⟨_, actsOnUnit_mbcRx b, fun _ => rfl⟩
  | mbcTimeout => exact ⟨_, .guarded (fun _ => true) actsOnUnit_mbcTimeoutBody, fun _ => rfl⟩
  | mbcReq | wireMbcRequest => exact ⟨_, actsOnUnit_mbcReq _ _ _ _, fun _ => rfl⟩
  | mbcCrcrst => exact ⟨crcOperation mbCrcInit okResult, fun _ => rfl, fun _ => rfl⟩
  | mbcCrcbyte b => exact ⟨fun s => crcOperation (crcStep s.mbc.crc b) okResult s, fun _ => rfl, fun _ => rfl⟩
  | mbcCrcrd => exact ⟨fun s => crcOperation s.mbc.crc ⟨.ok, .crc s.mbc.crc⟩ s, fun _ => rfl, fun _ => rfl⟩
  | reserved000110 | reserved000111 | reserved001000 | reserved001001 | reserved001010 | reserved001011
  | reserved001100 | reserved001101 | reserved001110 | reserved001111 | reserved011000 | reserved011001
  | reserved011010 | reserved011011 | reserved011100 | reserved011101 | reserved011110 | reserved011111
  | reserved100100 | reserved100110 | reserved100111 | reserved101011 | reserved101100 | reserved101101
  | reserved101110 | reserved101111 | reservedUnit11 => exact ⟨_, actsOnUnit_raise _ .illegalOp, fun _ => rfl⟩
  | wireCsfFrame dir cmd payload =>
    cases dir with
    | receive => exact ⟨_, actsOnUnit_csfPush (csfFrameBytes cmd payload), fun _ => rfl⟩
    | transmit => exact ⟨_, .guarded (fun _ => payloadLegal payload) (fun _ => rfl), fun _ => rfl⟩
  | wireFfcCmdframe dir cmd addr value fixed =>
    cases dir with
    | receive => exact ⟨_, actsOnUnit_ffcPush (ffcFrameBytes cmd addr value fixed), fun _ => rfl⟩
    | transmit => exact ⟨_, .guarded (fun _ => true) (fun _ => rfl), fun _ => rfl⟩
  | wireFfcSample raw => exact ⟨_, actsOnUnit_ffcPush (sampleBytes raw), fun _ => rfl⟩
  | wireMbcRespRead slave func data => exact ⟨_, actsOnUnit_mbcRxAll (mbcReadBytes slave func data), fun _ => rfl⟩
  | wireMbcRespWrite slave func addr data =>
    exact ⟨_, actsOnUnit_mbcRxAll (mbcWriteBytes slave func addr data), fun _ => rfl⟩
  | wireMbcRespException slave func code =>
    exact ⟨_, actsOnUnit_mbcRxAll (mbcExceptionBytes slave func code), fun _ => rfl⟩

/-- Settles O48: the state after an instruction is the state before it with the instruction's own unit replaced, and
what replaces it depends on the parameters and that unit alone. -/
theorem unitsAreIndependent : Obligations.UnitsAreIndependent := by
  intro i s s' t t' hexec hexec' hcfg
  obtain ⟨f, hf, hi⟩ := exec_actsOnUnit i
  cases hexec.symm.trans (hi s)
  cases hexec'.symm.trans (hi s')
  rw [hf s, hf s']
  cases hu : instrUnit i <;> simp +contextual [withUnitOf, unitAlone, hcfg]

/-! ## The answers of a closed unit -/

/-- With legal operands a closed unit answers `LinkUnavailable` (10_state R24, 60_exceptions R263). -/
theorem next_guarded_closed (u : UnitId) (legal : Bool) (body : State → State) (s : State) (hl : legal = true)
    (hc : isOpen u s = false) :
    (.next (guarded u legal body s) : Host.Outcome State Fault Refusal) = .next (raise u .linkUnavailable s) := by
  rw [hl, guarded_closed u body s hc]

/-- A frame's burst is legal when `BURST_MAX` allows its length: no frame is empty. -/
theorem burstLegal_of_length (cfg : Config) (bs : List Byte) (n : Nat) (hn : bs.length = n + 1)
    (hm : ∀ m, cfg.burstMax = some m → n + 1 ≤ m) : burstLegal cfg bs = true :=
  (burstLegal_iff cfg bs).2 ⟨List.ne_nil_of_length_eq_add_one hn, fun m h => hn ▸ hm m h⟩

/-- A legal kind of request (30_encoding R92) names one. -/
theorem kindOfCode_of_legal (kind : BitVec 2) (h : kindLegal kind = true) : ∃ k, kindOfCode kind = some k := by
  have hnamed : ∀ x : BitVec 2, kindLegal x = true → (kindOfCode x).isSome = true := by decide
  exact Option.isSome_iff_exists.1 (hnamed kind h)

theorem kindLegal_kindCode (k : ReqKind) : kindLegal (kindCode k) = true := by cases k <;> rfl

theorem mbcReq_closed (slave : Byte) (kind : BitVec 2) (addr data : Half) (s : State) (hk : kindLegal kind = true)
    (hc : s.mbc.isOpen = false) : mbcReq slave kind addr data s = raise .mbc .linkUnavailable s := by
  obtain ⟨k, hk⟩ := kindOfCode_of_legal kind hk
  simp only [mbcReq, hk]
  exact guarded_closed .mbc _ s hc

/-- When unit MBC answers every byte with the same status whatever it has delivered before, so it answers a whole
response. -/
theorem mbcRxAll_raises (st : Status) (s : State)
    (h : ∀ (b : Byte) (out : List Delivery), mbcRx b (withOut .mbc out s) = raise .mbc st (withOut .mbc out s))
    (bs : List Byte) :
    mbcRxAll bs s = withOut .mbc (s.mbc.out ++ List.replicate bs.length (.result ⟨st, .none⟩)) s := by
  suffices key : ∀ out, mbcRxAll bs (withOut .mbc out s) =
      withOut .mbc (out ++ List.replicate bs.length (.result ⟨st, .none⟩)) s from key s.mbc.out
  induction bs with
  | nil => simp
  | cons b bs ih =>
    intro out
    have hraise : raise .mbc st (withOut .mbc out s) = withOut .mbc (out ++ [.result ⟨st, .none⟩]) s := rfl
    rw [mbcRxAll_cons, h, hraise, ih, List.append_assoc]
    rfl

theorem mbcRxAll_closed (bs : List Byte) (s : State) (hc : s.mbc.isOpen = false) :
    mbcRxAll bs s =
      withOut .mbc (s.mbc.out ++ List.replicate bs.length (.result ⟨.linkUnavailable, .none⟩)) s :=
  mbcRxAll_raises .linkUnavailable s (fun b _ => guarded_closed .mbc (mbcRxBody b) _ hc) bs

theorem mbcRxAll_idle (bs : List Byte) (s : State) (ho : s.mbc.isOpen = true) (hb : s.mbc.busy = false) :
    mbcRxAll bs s = withOut .mbc (s.mbc.out ++ List.replicate bs.length (.result ⟨.mbIdle, .none⟩)) s :=
  mbcRxAll_raises .mbIdle s (fun b out =>
    (mbcRx_open b (withOut .mbc out s) ho).trans (mbcRxBody_idle b (withOut .mbc out s) hb)) bs

@[simp] theorem withCrc_length (body : List Byte) : (withCrc body).length = body.length + 2 := by simp [withCrc]

/-- A received response is its bytes, as many as its layout has (30_encoding R88). -/
theorem exec_mbcResponse (i : Instr) (n : Nat)
    (hi : (∃ slave func data, i = .wireMbcRespRead slave func data ∧ n = data.length + 5) ∨
      (∃ slave func addr data, i = .wireMbcRespWrite slave func addr data ∧ n = 8) ∨
      (∃ slave func code, i = .wireMbcRespException slave func code ∧ n = 5)) :
    ∃ bs, bs.length = n ∧ ∀ s, exec i s = .next (mbcRxAll bs s) := by
  obtain ⟨slave, func, data, rfl, rfl⟩ | ⟨slave, func, addr, data, rfl, rfl⟩ | ⟨slave, func, code, rfl, rfl⟩ := hi
  · exact ⟨mbcReadBytes slave func data, by simp [mbcReadBytes], fun _ => rfl⟩
  · exact ⟨mbcWriteBytes slave func addr data, by simp [mbcWriteBytes], fun _ => rfl⟩
  · exact ⟨mbcExceptionBytes slave func code, by simp [mbcExceptionBytes], fun _ => rfl⟩

/-- Settles O46: each named instruction is a guarded operation with legal operands, or the bytes of a response. -/
theorem closedUnitAnswersLinkUnavailable : Obligations.ClosedUnitAnswersLinkUnavailable := by
  intro s i hwf
  refine ⟨fun hclosed hi => ?csf, fun hclosed hi => ?ffc, fun hclosed hi => ?mbc, fun n hi => ?response⟩
  case csf =>
    have answer (legal : Bool) (body : State → State) (hl : legal = true) :=
      next_guarded_closed .csf legal body s hl hclosed
    rcases hi with rfl | rfl | ⟨bs, rfl⟩ | ⟨fe, fc, rfl⟩ | ⟨cmd, payload, rfl⟩ | ⟨cmd, payload, rfl⟩ |
      ⟨cmd, payload, rfl, hmax⟩
    · exact answer true csfCloseBody rfl
    · exact answer true csfClearBody rfl
    · exact answer (burstLegal s.cfg bs) (csfPushBody bs) hwf
    · exact answer true (csfDecodeBody fe fc) rfl
    · exact answer (payloadLegal payload) (csfEncodeBody cmd payload) hwf
    · exact answer (payloadLegal payload) (csfEncodeBody cmd payload) hwf
    · exact answer _ (csfPushBody (csfFrameBytes cmd payload))
        (burstLegal_of_length s.cfg _ _ (csfFrameBytes_length cmd payload) hmax)
  case ffc =>
    have answer (legal : Bool) (body : State → State) (hl : legal = true) :=
      next_guarded_closed .ffc legal body s hl hclosed
    rcases hi with rfl | rfl | rfl | rfl | ⟨bs, rfl⟩ | ⟨k, rfl⟩ | ⟨cmd, addr, value, rfl⟩ |
      ⟨cmd, addr, value, fixed, rfl⟩ | ⟨cmd, addr, value, fixed, rfl, hmax⟩ | ⟨raw, rfl, hmax⟩ | haux
    · exact answer true ffcCloseBody rfl
    · exact answer true ffcClearBody rfl
    · exact answer true ffcDecodeBody rfl
    · exact answer true ffcClassifyBody rfl
    · exact answer (burstLegal s.cfg bs) (ffcPushBody bs) hwf
    · exact answer true (ffcAuxBody k) rfl
    · exact answer true (ffcEncodeBody cmd addr value) rfl
    · exact answer true (ffcEncodeBody cmd addr value) rfl
    · exact answer _ (ffcPushBody (ffcFrameBytes cmd addr value fixed)) (burstLegal_of_length s.cfg _ 7 rfl hmax)
    · exact answer _ (ffcPushBody (sampleBytes raw)) (burstLegal_of_length s.cfg _ 1 rfl hmax)
    · simp only [List.mem_cons, List.not_mem_nil, or_false] at haux
      rcases haux with rfl | rfl | rfl | rfl
      · exact answer true (ffcAuxBody 0) rfl
      · exact answer true (ffcAuxBody 1) rfl
      · exact answer true (ffcAuxBody 2) rfl
      · exact answer true (ffcAuxBody 3) rfl
  case mbc =>
    rcases hi with rfl | rfl | ⟨b, rfl⟩ | ⟨slave, kind, addr, data, rfl⟩ | ⟨slave, kind, addr, data, rfl⟩
    · exact next_guarded_closed .mbc true mbcCloseBody s rfl hclosed
    · exact next_guarded_closed .mbc true mbcTimeoutBody s rfl hclosed
    · exact next_guarded_closed .mbc true (mbcRxBody b) s rfl hclosed
    · exact congrArg Host.Outcome.next (mbcReq_closed slave kind addr data s hwf hclosed)
    · exact congrArg Host.Outcome.next
        (mbcReq_closed slave (kindCode kind) addr data s (kindLegal_kindCode kind) hclosed)
  case response =>
    obtain ⟨bs, rfl, hexec⟩ := exec_mbcResponse i n hi
    rw [hexec]
    exact ⟨fun hclosed => congrArg Host.Outcome.next (mbcRxAll_closed bs s hclosed),
      fun hopen hidle => congrArg Host.Outcome.next (mbcRxAll_idle bs s hopen hidle)⟩

/-! ## What a decode pass leaves -/

/-- The two waits (40_csf_framer R126). -/
theorem csfDecodePass_waits (q : List Byte) (hsync : syncAt q 0) (h : q.length < csfMinFrame ∨ q.length < csfTotal q) :
    csfDecodePass q = (q, []) := by
  rw [csfDecodePass_sync q hsync]
  split
  · rfl
  · next h5 => rw [if_pos (h.resolve_left h5)]

/-- What a pass of unit CSF can end in, said once: nothing is left; or a candidate waits for more bytes; or fewer than
five bytes remain behind the last frame; and each frame before that adds only itself. -/
theorem csfDecodePass_induction {P : List Byte × List Frame → Prop}
    (empty : P ([], []))
    (wait : ∀ q, syncAt q 0 → q.length < csfMinFrame ∨ q.length < csfTotal q → P (q, []))
    (last : ∀ left f, left.length < 5 → P (left, [f]))
    (more : ∀ left fs f, P (left, fs) → P (left, f :: fs)) (q : List Byte) : P (csfDecodePass q) := by
  induction hn : q.length using Nat.strongRecOn generalizing q with
  | _ n ih =>
    subst hn
    cases hs : syncIndex q with
    | none => exact csfDecodePass_no_sync q hs ▸ empty
    | some p =>
      have hsync : syncAt (q.drop p) 0 := (syncAt_drop q p 0).2 ((syncIndex_some_iff q p).1 hs).1
      have hle : (q.drop p).length ≤ q.length := (List.drop_suffix p q).length_le
      rw [csfDecodePass_drop q p hs]
      generalize q.drop p = c at hsync hle
      have hpos := syncAt_lt c 0 hsync
      rw [csfDecodePass_sync c hsync]
      split
      · next h5 => exact wait c hsync (.inl h5)
      · split
        · next ht => exact wait c hsync (.inr ht)
        · split
          · split
            · refine more _ _ _ (ih _ ?_ (c.drop (csfTotal c)) rfl)
              simp only [List.length_drop, csfTotal]
              omega
            · next hshort => exact last _ _ (Nat.lt_of_not_le hshort)
          · refine ih _ ?_ (c.drop 1) rfl
            simp only [List.length_drop]
            omega

/-- The shapes of R33 for unit CSF. -/
def CsfLeftShape (left : List Byte) (fs : List Frame) : Prop :=
  left = [] ∨ (syncAt left 0 ∧ left.length < 5) ∨
  (syncAt left 0 ∧ 5 ≤ left.length ∧ ∃ l, left[3]? = some l ∧ left.length < 5 + l.toNat) ∨
  (1 ≤ left.length ∧ left.length ≤ 4 ∧ fs ≠ [])

theorem csfDecodePass_leftShape (q : List Byte) : CsfLeftShape (csfDecodePass q).1 (csfDecodePass q).2 := by
  refine csfDecodePass_induction (P := fun r => CsfLeftShape r.1 r.2) (.inl rfl) ?wait ?last ?more q
  case wait =>
    intro q hsync hshort
    by_cases h5 : q.length < 5
    · exact .inr (.inl ⟨hsync, h5⟩)
    · have hget : q[3]? = some (memByte q 3) := by
        simp [memByte, List.getD_eq_getElem?_getD, List.getElem?_eq_getElem (show 3 < q.length by omega)]
      exact .inr (.inr (.inl ⟨hsync, Nat.le_of_not_lt h5, memByte q 3, hget, hshort.resolve_left h5⟩))
  case last =>
    intro left f hlen
    cases left with
    | nil => exact .inl rfl
    | cons b left => exact .inr (.inr (.inr ⟨Nat.succ_pos _, Nat.le_of_lt_succ hlen, List.cons_ne_nil f []⟩))
  case more =>
    rintro left fs f (h | h | h | ⟨h1, h4, -⟩)
    · exact .inl h
    · exact .inr (.inl h)
    · exact .inr (.inr (.inl h))
    · exact .inr (.inr (.inr ⟨h1, h4, List.cons_ne_nil f fs⟩))

theorem ffcDecodePass_left_le_one (cfg : Config) (q : List Byte) : (ffcDecodePass cfg q).2.2.length ≤ 1 := by
  induction hn : q.length using Nat.strongRecOn generalizing q with
  | _ n ih =>
    subst hn
    by_cases h : 2 ≤ q.length
    · rw [ffcDecodePass_round cfg q h]
      exact ih _ (classifyQueue_shrinks cfg q h) _ rfl
    · rw [ffcDecodePass_short cfg q (by omega)]
      exact Nat.le_of_lt_succ (Nat.lt_of_not_le h)

/-- Settles O16, by induction on what a pass can end in. -/
theorem decodePassesLeaveTheStatedShapes : Obligations.DecodePassesLeaveTheStatedShapes :=
  ⟨csfDecodePass_leftShape, ffcDecodePass_left_le_one⟩

theorem csfFrameBytes_take_syncAt (cmd : Byte) (payload : List Byte) (n : Nat) (h : 2 ≤ n) :
    syncAt ((csfFrameBytes cmd payload).take n) 0 := by
  simp [syncAt, csfFrameBytes, show 0 < n by omega, show 1 < n by omega]

/-- The beginning of a frame names the length of the whole frame as soon as its `LEN` byte is there. -/
theorem csfTotal_take_csfFrameBytes (cmd : Byte) (payload : List Byte) (n : Nat) (hp : payload.length ≤ 255)
    (h : 4 ≤ n) : csfTotal ((csfFrameBytes cmd payload).take n) = payload.length + 5 := by
  have hmod : payload.length % 256 = payload.length := Nat.mod_eq_of_lt (by omega)
  simp [csfTotal, memByte, csfFrameBytes, List.getD_eq_getElem?_getD, show 3 < n by omega, hmod, Nat.add_comm]

/-- Settles O23: from the second byte on the beginning of a frame is a candidate that waits, and before that it holds
no sync. -/
theorem csfPartialFrameIsKeptFromTheSecondByteOn : Obligations.CsfPartialFrameIsKeptFromTheSecondByteOn := by
  intro cmd payload n hp hn
  have hlen : ((csfFrameBytes cmd payload).take n).length = n :=
    List.length_take_of_le (by rw [csfFrameBytes_length]; omega)
  split
  · next h2 =>
    refine csfDecodePass_waits _ (csfFrameBytes_take_syncAt cmd payload n h2) ?_
    by_cases h4 : 4 ≤ n
    · rw [csfTotal_take_csfFrameBytes cmd payload n hp h4, hlen]
      exact .inr hn
    · exact .inl (hlen.trans_lt (by rw [csfMinFrame]; omega))
  · next h2 =>
    refine csfDecodePass_no_sync _ ((syncIndex_none_iff _).2 fun i hi => ?_)
    have := syncAt_lt _ i hi
    omega

end Sys2Proof.Machine
end

section
/-! Proofs for spec/20_memory.md: a second pass of unit CSF (R64), and storage that is first-in first-out beside output
streams that only grow (R51, R63, with 00_scope R13). -/

namespace Sys2Proof.Machine

/-! ## A second pass -/

/-- What a pass leaves is too short to hold the frame it may begin: shorter than any frame, or than its candidate. -/
theorem csfDecodePass_left_short (q : List Byte) :
    (csfDecodePass q).1.length < csfMinFrame ∨ (csfDecodePass q).1.length < csfTotal (csfDecodePass q).1 :=
  csfDecodePass_induction (P := fun r => r.1.length < csfMinFrame ∨ r.1.length < csfTotal r.1)
    (empty := .inl (Nat.succ_pos 4))
    (wait := fun _ _ hshort => hshort)
    (last := fun _ _ hlen => .inl hlen)
    (more := fun _ _ _ hshort => hshort) q

/-- Settles O24: an empty queue holds no sync, and a leftover that begins with one waits for more bytes. -/
theorem csfSecondPassChangesNothing : Obligations.CsfSecondPassChangesNothing := by
  rintro q (hempty | hsync)
  · rw [hempty]
    exact csfDecodePass_no_sync [] rfl
  · exact csfDecodePass_waits _ hsync (csfDecodePass_left_short q)

/-! ## Queues and streams over an instruction -/

/-- `q'` is what an operation that brings `bs` may leave of a queue `q`: a tail of it, or all of it and then all of
`bs` (20_memory R51). -/
def FifoStep (bs q q' : List Byte) : Prop := q' <:+ q ∨ q' = q ++ bs

theorem FifoStep.unchanged (bs q : List Byte) : FifoStep bs q q := .inl (List.suffix_refl q)

theorem FifoStep.emptied (bs q : List Byte) : FifoStep bs q [] := .inl List.nil_suffix

/-- From `s` to `t` the storage is first-in first-out, with the bytes `i` brings, and every output stream only grows at
its end (20_memory R51, R63, 00_scope R13). -/
structure KeepsOrder (i : Instr) (s t : State) : Prop where
  csfQ : FifoStep (csfPushed i) s.csf.q t.csf.q
  ffcQ : FifoStep (ffcPushed i) s.ffc.q t.ffc.q
  mbcR : FifoStep (mbcPushed i) s.mbc.r t.mbc.r
  csfOut : s.csf.out <+: t.csf.out
  ffcOut : s.ffc.out <+: t.ffc.out
  mbcOut : s.mbc.out <+: t.mbc.out
  hostOut : s.host.out <+: t.host.out
  csfTx : s.csf.tx <+: t.csf.tx
  ffcTx : s.ffc.tx <+: t.ffc.tx
  mbcTx : s.mbc.tx <+: t.mbc.tx

theorem KeepsOrder.refl (i : Instr) (s : State) : KeepsOrder i s s where
  csfQ := .unchanged _ _
  ffcQ := .unchanged _ _
  mbcR := .unchanged _ _
  csfOut := List.prefix_rfl
  ffcOut := List.prefix_rfl
  mbcOut := List.prefix_rfl
  hostOut := List.prefix_rfl
  csfTx := List.prefix_rfl
  ffcTx := List.prefix_rfl
  mbcTx := List.prefix_rfl

section
variable {i : Instr} {s t : State}

/-! ## What an operation does to a queue or a stream -/

theorem KeepsOrder.deliver (h : KeepsOrder i s t) (u : UnitId) (es : List Event) (r : Result) :
    KeepsOrder i s (deliver u es r t) := by
  cases u with
  | csf => exact { h with csfOut := h.csfOut.trans (List.prefix_append _ _) }
  | ffc => exact { h with ffcOut := h.ffcOut.trans (List.prefix_append _ _) }
  | mbc => exact { h with mbcOut := h.mbcOut.trans (List.prefix_append _ _) }
  | reserved => exact { h with hostOut := h.hostOut.trans (List.prefix_append _ _) }

theorem KeepsOrder.transmit (h : KeepsOrder i s t) (u : UnitId) (bs : List Byte) :
    KeepsOrder i s (transmit u bs t) := by
  cases u with
  | csf => exact { h with csfTx := h.csfTx.trans (List.prefix_append _ _) }
  | ffc => exact { h with ffcTx := h.ffcTx.trans (List.prefix_append _ _) }
  | mbc => exact { h with mbcTx := h.mbcTx.trans (List.prefix_append _ _) }
  | reserved => exact h

theorem keepsOrder_raise (u : UnitId) (st : Status) : KeepsOrder i s (raise u st s) :=
  (KeepsOrder.refl i s).deliver u [] ⟨st, .none⟩

theorem KeepsOrder.guarded {u : UnitId} {legal : Bool} {body : State → State} (h : KeepsOrder i s (body s)) :
    KeepsOrder i s (guarded u legal body s) := by
  obtain ⟨-, e⟩ | ⟨-, -, e⟩ | ⟨-, -, e⟩ := guarded_cases u legal body s <;> rw [e]
  · exact keepsOrder_raise u .illegalOp
  · exact keepsOrder_raise u .linkUnavailable
  · exact h

/-- An operation that answers and transmits, and does nothing else. -/
theorem keepsOrder_encode (u : UnitId) (legal : Bool) (bs : State → List Byte) :
    KeepsOrder i s (guarded u legal (fun s => deliver u [] okResult (transmit u (bs s) s)) s) :=
  .guarded (((KeepsOrder.refl i s).transmit u (bs s)).deliver u [] okResult)

/-- Another queue of unit CSF, its link open or closed. -/
theorem keepsOrder_csfQueue (q : List Byte) (isOpen : Bool) (hq : FifoStep (csfPushed i) s.csf.q q) :
    KeepsOrder i s (s.setCsf { s.csf with q := q, isOpen := isOpen }) :=
  { KeepsOrder.refl i s with csfQ := hq }

/-- Another queue of unit FFC, its link open or closed. -/
theorem keepsOrder_ffcQueue (q : List Byte) (isOpen : Bool) (hq : FifoStep (ffcPushed i) s.ffc.q q) :
    KeepsOrder i s (s.setFfc { s.ffc with q := q, isOpen := isOpen }) :=
  { KeepsOrder.refl i s with ffcQ := hq }

/-- An emptied queue of unit CSF, its link open or closed. -/
theorem keepsOrder_emptyCsf (isOpen : Bool) :
    KeepsOrder i s (deliver .csf [] okResult (s.setCsf { s.csf with q := [], isOpen := isOpen })) :=
  (keepsOrder_csfQueue [] isOpen (.emptied _ _)).deliver .csf [] okResult

/-- An emptied queue of unit FFC, its link open or closed. -/
theorem keepsOrder_emptyFfc (isOpen : Bool) :
    KeepsOrder i s (deliver .ffc [] okResult (s.setFfc { s.ffc with q := [], isOpen := isOpen })) :=
  (keepsOrder_ffcQueue [] isOpen (.emptied _ _)).deliver .ffc [] okResult

theorem keepsOrder_csfPush (bs : List Byte) (hbs : csfPushed i = bs) : KeepsOrder i s (csfPush bs s) := by
  refine .guarded ?_
  rw [csfPushBody]
  split
  · exact (keepsOrder_csfQueue (s.csf.q ++ bs) s.csf.isOpen (.inr (hbs ▸ rfl))).deliver .csf [] okResult
  · exact keepsOrder_raise .csf .queueFull

theorem keepsOrder_ffcPush (bs : List Byte) (hbs : ffcPushed i = bs) : KeepsOrder i s (ffcPush bs s) := by
  refine .guarded ?_
  rw [ffcPushBody]
  split
  · exact (keepsOrder_ffcQueue (s.ffc.q ++ bs) s.ffc.isOpen (.inr (hbs ▸ rfl))).deliver .ffc [] okResult
  · exact keepsOrder_raise .ffc .queueFull

/-- Unit MBC with its buffer empty and its streams as they were. -/
theorem keepsOrder_emptyMbc (isOpen busy : Bool) (expSlave expFunc : Byte) :
    KeepsOrder i s (s.setMbc
      { s.mbc with r := [], isOpen := isOpen, busy := busy, expSlave := expSlave, expFunc := expFunc }) :=
  { KeepsOrder.refl i s with mbcR := .emptied _ _ }

/-- The end of a transaction, with any answer and the link open or closed. -/
theorem keepsOrder_transactionEnd (isOpen : Bool) (r : Result) :
    KeepsOrder i s (deliver .mbc [] r (s.setMbc { s.mbc with r := [], busy := false, isOpen := isOpen })) :=
  (keepsOrder_emptyMbc isOpen false s.mbc.expSlave s.mbc.expFunc).deliver .mbc [] r

theorem keepsOrder_crcOperation (value : Half) (r : Result) : KeepsOrder i s (crcOperation value r s) :=
  KeepsOrder.deliver (t := s.setMbc { s.mbc with crc := value }) { KeepsOrder.refl i s with } .mbc [] r

theorem keepsOrder_mbcTimeoutBody : KeepsOrder i s (mbcTimeoutBody s) := by
  rw [mbcTimeoutBody]
  split
  · exact keepsOrder_transactionEnd s.mbc.isOpen _
  · exact keepsOrder_raise .mbc .mbIdle

theorem keepsOrder_mbcReq (slave : Byte) (kind : BitVec 2) (addr data : Half) :
    KeepsOrder i s (mbcReq slave kind addr data s) := by
  rw [mbcReq]
  split
  · next k _ =>
    exact .guarded (((keepsOrder_emptyMbc s.mbc.isOpen true slave (funcOfKind s.cfg k)).transmit .mbc _).deliver
      .mbc [] okResult)
  · exact keepsOrder_raise .mbc .illegalOp

end

/-! ## The bytes of a response -/

/-- While a transaction waits, received bytes are all kept in order, or one of them completes the response and empties
the buffer, and those behind it find no transaction. -/
theorem mbcRxAll_busy (bs : List Byte) (s : State) (ho : s.mbc.isOpen = true) (hb : s.mbc.busy = true) :
    ∃ r busy answers,
      mbcRxAll bs s = s.setMbc { s.mbc with r := r, busy := busy, out := s.mbc.out ++ answers } ∧
      (r = [] ∨ r = s.mbc.r ++ bs) := by
  induction bs generalizing s with
  | nil => exact ⟨s.mbc.r, s.mbc.busy, [], by rw [List.append_nil]; rfl, .inr (List.append_nil _).symm⟩
  | cons b bs ih =>
    rw [mbcRxAll_cons, mbcRx_open b s ho]
    cases hc : mbComplete s.cfg s.mbc.expFunc (s.mbc.r ++ [b]) with
    | false =>
      have hmore := mbcRxBody_more b s hb hc
      obtain ⟨r, busy, answers, e, hr⟩ := ih (mbcRxBody b s) (by rw [hmore]; exact ho) (by rw [hmore]; exact hb)
      exact ⟨r, busy, .result ⟨.ok, .incomplete⟩ :: answers, e.trans (by simp [hmore]), by simpa [hmore] using hr⟩
    | true =>
      have hlast := mbcRxBody_last b s hb hc
      rw [mbcRxAll_idle bs (mbcRxBody b s) (by rw [hlast]; exact ho) (by rw [hlast]; rfl), hlast]
      exact ⟨[], false, _, by rw [withOut_mbc, setMbc_setMbc, setMbc_mbc, List.append_assoc], .inl rfl⟩

/-- Whatever bytes unit MBC receives, only its buffer, its `busy` bit and its answers change. -/
theorem mbcRxAll_cases (bs : List Byte) (s : State) :
    ∃ r busy answers,
      mbcRxAll bs s = s.setMbc { s.mbc with r := r, busy := busy, out := s.mbc.out ++ answers } ∧
      FifoStep bs s.mbc.r r := by
  cases ho : s.mbc.isOpen with
  | false => exact ⟨s.mbc.r, s.mbc.busy, _, mbcRxAll_closed bs s ho, .unchanged _ _⟩
  | true =>
    cases hb : s.mbc.busy with
    | false => exact ⟨s.mbc.r, s.mbc.busy, _, mbcRxAll_idle bs s ho hb, .unchanged _ _⟩
    | true =>
      obtain ⟨r, busy, answers, e, rfl | hr⟩ := mbcRxAll_busy bs s ho hb
      · exact ⟨[], busy, answers, e, .emptied _ _⟩
      · exact ⟨r, busy, answers, e, .inr hr⟩

theorem keepsOrder_mbcRxAll {i : Instr} {s : State} (bs : List Byte) (hbs : mbcPushed i = bs) :
    KeepsOrder i s (mbcRxAll bs s) := by
  obtain ⟨r, busy, answers, e, hr⟩ := mbcRxAll_cases bs s
  rw [e]
  exact { KeepsOrder.refl i s with mbcR := hbs ▸ hr, mbcOut := List.prefix_append _ _ }

/-! ## Every instruction -/

theorem exec_keepsOrder (i : Instr) (s : State) : ∃ t, exec i s = .next t ∧ KeepsOrder i s t := by
  cases i with
  | csfOpen => exact ⟨_, rfl, keepsOrder_emptyCsf true⟩
  | csfClose => exact ⟨_, rfl, .guarded (keepsOrder_emptyCsf false)⟩
  | csfClear => exact ⟨_, rfl, .guarded (keepsOrder_emptyCsf s.csf.isOpen)⟩
  | csfDecode fe fc =>
    have htail := csfDecodePass_suffix s.csf.q
    exact ⟨_, rfl, .guarded ((keepsOrder_csfQueue _ s.csf.isOpen (.inl htail)).deliver .csf _ _)⟩
  | csfPush bs => exact ⟨_, rfl, keepsOrder_csfPush bs rfl⟩
  | csfEncode => exact ⟨_, rfl, keepsOrder_encode .csf _ _⟩
  | ffcOpen => exact ⟨_, rfl, keepsOrder_emptyFfc true⟩
  | ffcClose => exact ⟨_, rfl, .guarded (keepsOrder_emptyFfc false)⟩
  | ffcClear => exact ⟨_, rfl, .guarded (keepsOrder_emptyFfc s.ffc.isOpen)⟩
  | ffcDecode =>
    have htail := ffcDecodePass_suffix s.cfg s.ffc.q
    exact ⟨_, rfl, .guarded ((keepsOrder_ffcQueue _ s.ffc.isOpen (.inl htail)).deliver .ffc _ _)⟩
  | ffcClassify =>
    have htail := classifyQueue_suffix s.cfg s.ffc.q
    exact ⟨_, rfl, .guarded ((keepsOrder_ffcQueue _ s.ffc.isOpen (.inl htail)).deliver .ffc _ _)⟩
  | ffcPush bs => exact ⟨_, rfl, keepsOrder_ffcPush bs rfl⟩
  | ffcEncode | ffcAux | wireFfcAuxEnter | wireFfcAuxExit | wireFfcAuxSuspend | wireFfcAuxResume =>
    exact ⟨_, rfl, keepsOrder_encode .ffc true _⟩
  | mbcOpen => exact ⟨_, rfl, keepsOrder_transactionEnd true okResult⟩
  | mbcClose => exact ⟨_, rfl, .guarded (keepsOrder_transactionEnd false okResult)⟩
  | mbcRx b => exact ⟨_, rfl, keepsOrder_mbcRxAll [b] rfl⟩
  | mbcTimeout => exact ⟨_, rfl, .guarded keepsOrder_mbcTimeoutBody⟩
  | mbcReq | wireMbcRequest => exact ⟨_, rfl, keepsOrder_mbcReq _ _ _ _⟩
  | mbcCrcrst | mbcCrcbyte | mbcCrcrd => exact ⟨_, rfl, keepsOrder_crcOperation _ _⟩
  | reserved000110 | reserved000111 | reserved001000 | reserved001001 | reserved001010 | reserved001011
  | reserved001100 | reserved001101 | reserved001110 | reserved001111 | reserved011000 | reserved011001
  | reserved011010 | reserved011011 | reserved011100 | reserved011101 | reserved011110 | reserved011111
  | reserved100100 | reserved100110 | reserved100111 | reserved101011 | reserved101100 | reserved101101
  | reserved101110 | reserved101111 | reservedUnit11 => exact ⟨_, rfl, keepsOrder_raise _ .illegalOp⟩
  | wireCsfFrame dir cmd payload =>
    cases dir with
    | receive => exact ⟨_, rfl, keepsOrder_csfPush (csfFrameBytes cmd payload) rfl⟩
    | transmit => exact ⟨_, rfl, keepsOrder_encode .csf _ _⟩
  | wireFfcCmdframe dir cmd addr value fixed =>
    cases dir with
    | receive => exact ⟨_, rfl, keepsOrder_ffcPush (ffcFrameBytes cmd addr value fixed) rfl⟩
    | transmit => exact ⟨_, rfl, keepsOrder_encode .ffc true _⟩
  | wireFfcSample raw => exact ⟨_, rfl, keepsOrder_ffcPush (sampleBytes raw) rfl⟩
  | wireMbcRespRead slave func data =>
    exact ⟨_, rfl, keepsOrder_mbcRxAll (mbcReadBytes slave func data) rfl⟩
  | wireMbcRespWrite slave func addr data =>
    exact ⟨_, rfl, keepsOrder_mbcRxAll (mbcWriteBytes slave func addr data) rfl⟩
  | wireMbcRespException slave func code =>
    exact ⟨_, rfl, keepsOrder_mbcRxAll (mbcExceptionBytes slave func code) rfl⟩

/-- Settles O51, by the cases of the instruction: each empties, cuts or extends its own unit's storage, and only adds
to streams. -/
theorem storageIsFifoAndStreamsOnlyGrow : Obligations.StorageIsFifoAndStreamsOnlyGrow := by
  intro i s t hexec
  obtain ⟨t', hexec', h⟩ := exec_keepsOrder i s
  cases hexec.symm.trans hexec'
  exact ⟨⟨h.csfQ, h.ffcQ, h.mbcR⟩, ⟨h.csfOut, h.ffcOut, h.mbcOut, h.hostOut⟩, ⟨h.csfTx, h.ffcTx, h.mbcTx⟩⟩

end Sys2Proof.Machine
end

section
/-! Proofs for spec/30_encoding.md: the request records (R90, R91, R93), the frames of the wire formats as the encoder
writes and the decoder reads them (R80 to R88), and what the rows of both do. -/

namespace Sys2Proof.Machine

/-! ## The operation map -/

/-- Every code has a row (30_encoding R91, R93). -/
theorem operationMap_total (opsel : BitVec 6) :
    (operationMap.find? (fun row => row.covers opsel)).isSome = true := by
  revert opsel
  decide

/-- A request record is read by the row of its code. -/
theorem exists_row_of_opsel (opsel : BitVec 6) :
    ∃ row ∈ operationMap, row.covers opsel = true ∧
      ∀ r : Request, r.opsel = opsel → decodeRequest r = .ok (row.build r) := by
  obtain ⟨row, hrow⟩ := Option.isSome_iff_exists.1 (operationMap_total opsel)
  have hcovers : row.covers opsel = true := by simpa using List.find?_some hrow
  refine ⟨row, List.mem_of_find?_eq_some hrow, hcovers, ?_⟩
  rintro r rfl
  exact decodeRequest_row r row hrow

theorem covers_iff (row : OpRow) (opsel : BitVec 6) :
    row.covers opsel = true ↔ opsel &&& row.mask = row.pattern := beq_iff_eq

/-- What a row builds is an operation or a reserved code of the unit its pattern selects (30_encoding R90). -/
theorem operationMap_builds (r : Request) :
    ∀ row ∈ operationMap, isOperation (row.build r) = true ∧ instrUnit (row.build r) = opselUnit row.pattern := by
  simp only [operationMap, List.forall_mem_append]
  refine ⟨⟨⟨?csf, ?ffc⟩, ?mbc⟩, ?reserved⟩
  case csf => simp [csfRows, isOperation, instrUnit, opselUnit]
  case ffc => simp [ffcRows, isOperation, instrUnit, opselUnit]
  case mbc => simp [mbcRows, isOperation, instrUnit, opselUnit]
  case reserved => simp [reservedRows, isOperation, instrUnit, opselUnit]

/-- The bits that select the unit decide in every row: what a row covers is for the unit of its pattern. -/
theorem opselUnit_of_covers {row : OpRow} (hrow : row ∈ operationMap) {opsel : BitVec 6}
    (h : row.covers opsel = true) : opselUnit opsel = opselUnit row.pattern := by
  have hmask : ∀ row ∈ operationMap, row.mask.extractLsb' 4 2 = BitVec.allOnes 2 := by decide
  have hbits : row.pattern.extractLsb' 4 2 = opsel.extractLsb' 4 2 := by
    rw [← (covers_iff row opsel).1 h, BitVec.extractLsb'_and, hmask row hrow, BitVec.and_allOnes]
  simp only [opselUnit, hbits]

/-- Settles O54, from the row of the record's code. -/
theorem everyRequestRecordDecodes : Obligations.EveryRequestRecordDecodes := by
  intro cfg r
  obtain ⟨row, hrow, hcovers, hdecode⟩ := exists_row_of_opsel r.opsel
  obtain ⟨hoperation, hunit⟩ := operationMap_builds r row hrow
  exact ⟨row.build r, hdecode r rfl, hoperation, hunit.trans (opselUnit_of_covers hrow hcovers).symm⟩

/-- Settles O55, one code after the other. -/
theorem operationMapSelectsTheOperation : Obligations.OperationMapSelectsTheOperation :=
  fun _ r => ⟨decodeRequest_csfOpen r, decodeRequest_csfClose r, decodeRequest_csfPush r, decodeRequest_csfDecode r,
    decodeRequest_csfClear r, decodeRequest_csfEncode r, decodeRequest_ffcOpen r, decodeRequest_ffcClose r,
    decodeRequest_ffcPush r, decodeRequest_ffcDecode r, decodeRequest_ffcClear r, decodeRequest_ffcEncode r,
    decodeRequest_ffcAux r, decodeRequest_ffcClassify r, decodeRequest_mbcOpen r, decodeRequest_mbcClose r,
    decodeRequest_mbcRx r, decodeRequest_mbcTimeout r, decodeRequest_mbcReq r, decodeRequest_mbcCrcrst r,
    decodeRequest_mbcCrcbyte r, decodeRequest_mbcCrcrd r⟩

/-! ## The operands a code does not name -/

/-- The codes whose operations name operands (30_encoding R91). -/
def operandCodes : List (BitVec 6) :=
  [0b000010, 0b000011, 0b000101, 0b010010, 0b010101, 0b010110, 0b100010, 0b100101, 0b101001]

/-- A row of any other code looks at nothing but the code. -/
theorem operationMap_build_of_opsel (r r' : Request) (h : r.opsel = r'.opsel) :
    ∀ row ∈ operationMap, row.pattern ∉ operandCodes → row.build r = row.build r' := by
  simp only [operationMap, List.forall_mem_append]
  refine ⟨⟨⟨?csf, ?ffc⟩, ?mbc⟩, ?reserved⟩
  case csf => simp [csfRows, operandCodes]
  case ffc => simp [ffcRows, operandCodes]
  case mbc => simp [mbcRows, operandCodes]
  case reserved => simp [reservedRows, h]

/-- Two records of a code without operands are the same instruction. -/
theorem decodeRequest_of_opsel (r r' : Request) (h : r.opsel = r'.opsel) (hcode : r.opsel ∉ operandCodes) :
    decodeRequest r = decodeRequest r' := by
  obtain ⟨row, hrow, hcovers, hdecode⟩ := exists_row_of_opsel r.opsel
  have hmask : ∀ row ∈ operationMap, row.pattern ∈ operandCodes → row.mask = BitVec.allOnes 6 := by decide
  have hpattern : row.pattern ∉ operandCodes := by
    intro hmem
    have hcovered := (covers_iff row r.opsel).1 hcovers
    rw [hmask row hrow hmem, BitVec.and_allOnes] at hcovered
    exact hcode (hcovered ▸ hmem)
  rw [hdecode r rfl, hdecode r' h.symm, operationMap_build_of_opsel r r' h row hrow hpattern]

/-- Settles O56: a code that names operands by its row, any other by `decodeRequest_of_opsel`. -/
theorem operandBitsNotNamedAreIgnored : Obligations.OperandBitsNotNamedAreIgnored := by
  intro cfg r r' hcode hpush hdecode hcsfEncode hffcEncode haux hbyte hreq
  change decodeRequest r = decodeRequest r'
  by_cases hmem : r.opsel ∈ operandCodes
  · simp only [operandCodes, List.mem_cons, List.not_mem_nil, or_false] at hmem
    rcases hmem with h | h | h | h | h | h | h | h | h <;> have h' := hcode.symm.trans h
    · rw [decodeRequest_csfPush r h, decodeRequest_csfPush r' h', hpush (.inl h)]
    · obtain ⟨ha, hc⟩ := hdecode h
      rw [decodeRequest_csfDecode r h, decodeRequest_csfDecode r' h', filterEnableOf, filterEnableOf, ha, hc]
    · obtain ⟨ha, hdata⟩ := hcsfEncode h
      rw [decodeRequest_csfEncode r h, decodeRequest_csfEncode r' h', ha, hdata]
    · rw [decodeRequest_ffcPush r h, decodeRequest_ffcPush r' h', hpush (.inr h)]
    · obtain ⟨ha, hb, hc⟩ := hffcEncode h
      rw [decodeRequest_ffcEncode r h, decodeRequest_ffcEncode r' h', ha, hb, hc]
    · rw [decodeRequest_ffcAux r h, decodeRequest_ffcAux r' h', auxIndexOf, auxIndexOf, haux h]
    · rw [decodeRequest_mbcRx r h, decodeRequest_mbcRx r' h', hbyte (.inl h)]
    · obtain ⟨ha, hc, hb, hd⟩ := hreq h
      rw [decodeRequest_mbcReq r h, decodeRequest_mbcReq r' h', kindOf, kindOf, ha, hc, hb, hd]
    · rw [decodeRequest_mbcCrcbyte r h, decodeRequest_mbcCrcbyte r' h', hbyte (.inr h)]
  · exact decodeRequest_of_opsel r r' hcode hmem

/-! ## The reserved codes -/

/-- The record of a code with every operand 0. -/
def bareRequest (opsel : BitVec 6) : Request := ⟨opsel, 0, 0, 0, 0, []⟩

/-- A code without operands is decoded as its bare record is. -/
theorem decodeRequest_of_bare {opsel : BitVec 6} {i : Instr}
    (h : opsel ∉ operandCodes ∧ decodeRequest (bareRequest opsel) = .ok i) (r : Request) (hr : r.opsel = opsel) :
    decodeRequest r = .ok i :=
  (decodeRequest_of_opsel r (bareRequest opsel) hr (hr ▸ h.1)).trans h.2

/-- `opsel[5:4] = 11` is the reserved unit, whatever `opsel[3:0]` is (30_encoding R93). -/
theorem decodeRequest_reservedUnit11 (r : Request) (h : r.opsel.extractLsb' 4 2 = 3) :
    decodeRequest r = .ok (.reservedUnit11 (r.opsel.extractLsb' 0 4)) := by
  have hbare : ∀ x : BitVec 6, x.extractLsb' 4 2 = 3 →
      x ∉ operandCodes ∧ decodeRequest (bareRequest x) = .ok (.reservedUnit11 (x.extractLsb' 0 4)) := by decide
  exact decodeRequest_of_bare (hbare r.opsel h) r rfl

/-- Settles O45: every reserved code names no operand, and its instruction raises `IllegalOp`. -/
theorem reservedCodesAnswerIllegalOp : Obligations.ReservedCodesAnswerIllegalOp := by
  intro s
  refine ⟨fun p hp => ⟨decodeRequest_of_bare (by revert p; decide), ?csf⟩,
    fun p hp => ⟨decodeRequest_of_bare (by revert p; decide), ?ffc⟩,
    fun p hp => ⟨decodeRequest_of_bare (by revert p; decide), ?mbc⟩, fun op => ⟨?reserved, rfl⟩⟩
  case reserved =>
    rintro r hunit rfl
    exact decodeRequest_reservedUnit11 r hunit
  all_goals simp only [List.mem_cons, List.not_mem_nil, or_false] at hp
  case csf => rcases hp with rfl | rfl | rfl | rfl | rfl | rfl | rfl | rfl | rfl | rfl <;> rfl
  case ffc => rcases hp with rfl | rfl | rfl | rfl | rfl | rfl | rfl | rfl <;> rfl
  case mbc => rcases hp with rfl | rfl | rfl | rfl | rfl | rfl | rfl | rfl <;> rfl

/-! ## Frames: what the encoder writes and the decoder reads -/

@[simp] theorem memByte_cons_zero (b : Byte) (bs : List Byte) : memByte (b :: bs) 0 = b := rfl

@[simp] theorem memByte_cons_succ (b : Byte) (bs : List Byte) (i : Nat) :
    memByte (b :: bs) (i + 1) = memByte bs i := rfl

@[simp] theorem memRead_cons_succ (b : Byte) (bs : List Byte) (i n : Nat) :
    memRead (b :: bs) (i + 1) n = memRead bs i n := rfl

/-- A field at the head of a sequence, of the length a one-byte count gives. -/
theorem memRead_counted (field rest : List Byte) (h : field.length ≤ 255) :
    memRead (field ++ rest) 0 (BitVec.ofNat 8 field.length).toNat = field := by
  rw [BitVec.toNat_ofNat, Nat.mod_eq_of_lt (by omega)]
  simp [memRead]

/-- A field whose length is read from one byte has at most 255 bytes. -/
theorem memRead_byte_length (bs : List Byte) (i : Nat) (count : Byte) : (memRead bs i count.toNat).length ≤ 255 := by
  have hread : (memRead bs i count.toNat).length ≤ count.toNat := List.length_take_le _ _
  have := count.isLt
  omega

/-- Bytes decode as a frame exactly when they are the frame of the instruction their fields name. -/
theorem decode_wire_iff (cfg : Config) (format : WireFormat) (dir : Direction) (bs : List Byte) (i : Instr) :
    decode cfg (.wire format dir bs) = .ok i ↔
      directionLegal format dir = true ∧ wireCandidate cfg dir bs format = some i ∧ frameOf cfg i = bs := by
  refine ⟨fun h => ?_, fun ⟨hdir, hcandidate, hframe⟩ => decode_wire cfg format dir bs i hdir hcandidate hframe⟩
  simp only [decode, decodeWire] at h
  split at h
  · next hdir =>
    split at h
    · next j hcandidate =>
      split at h
      · next hframe =>
        cases h
        exact ⟨hdir, hcandidate, hframe⟩
      · cases h
    · cases h
  · cases h

/-- A command frame has the bytes of its fields; those of a transmitted one are fixed (30_encoding R83). -/
theorem frameOf_ffcCmdframe (cfg : Config) (dir : Direction) (cmd : Byte) (addr : Half) (value : Byte)
    (fixed : FixedBytes) (h : fixedBytesLegal cfg dir fixed = true) :
    frameOf cfg (.wireFfcCmdframe dir cmd addr value fixed) = ffcFrameBytes cmd addr value fixed := by
  cases dir with
  | receive => rfl
  | transmit =>
    obtain ⟨hlen, htrailer⟩ := of_decide_eq_true h
    simp only [frameOf, ffcFrameBytes, sentFixedBytes, hlen, htrailer]

/-- The encoder writes for the instruction read from bytes a frame of their format and direction. -/
theorem encode_of_wireCandidate {cfg : Config} {format : WireFormat} {dir : Direction} {bs : List Byte} {i : Instr}
    (hdir : directionLegal format dir = true) (h : wireCandidate cfg dir bs format = some i) :
    encode cfg i = .wire format dir (frameOf cfg i) := by
  cases format with
  | csfFrame | ffcCmdframe => cases h; rfl
  | ffcSample | mbcRespRead | mbcRespWrite | mbcRespException | ffcAuxEnter | ffcAuxExit | ffcAuxSuspend
  | ffcAuxResume => cases h; cases eq_of_beq hdir; rfl
  | mbcRequest =>
    obtain ⟨kind, -, rfl⟩ := Option.map_eq_some_iff.1 h
    cases eq_of_beq hdir
    rfl

/-- The instruction read from bytes that are its frame is well formed. -/
theorem wellFormed_of_wireCandidate {cfg : Config} {format : WireFormat} {dir : Direction} {bs : List Byte} {i : Instr}
    (h : wireCandidate cfg dir bs format = some i) (hframe : frameOf cfg i = bs) : i.wellFormed cfg = true := by
  cases format with
  | csfFrame => cases h; exact decide_eq_true (memRead_byte_length bs 4 (memByte bs 3))
  | mbcRespRead => cases h; exact decide_eq_true (memRead_byte_length bs 3 (memByte bs 2))
  | ffcCmdframe =>
    cases h
    cases dir with
    | receive => rfl
    | transmit =>
      have hlen : ffcLen8 = memByte bs 2 := congrArg (memByte · 2) hframe
      have htrailer : cfg.ffcTrailer = memByte bs 7 := congrArg (memByte · 7) hframe
      exact decide_eq_true ⟨hlen.symm, htrailer.symm⟩
  | mbcRequest =>
    obtain ⟨kind, -, rfl⟩ := Option.map_eq_some_iff.1 h
    rfl
  | ffcSample | ffcAuxEnter | ffcAuxExit | ffcAuxSuspend | ffcAuxResume | mbcRespWrite | mbcRespException =>
    cases h; rfl

/-- Settles O53: the bytes are the frame of the instruction read from them. -/
theorem decodedFramesAreEncodedFrames : Obligations.DecodedFramesAreEncodedFrames := by
  intro cfg format dir bs i h
  obtain ⟨hdir, hcandidate, hframe⟩ := (decode_wire_iff cfg format dir bs i).1 h
  refine ⟨?_, wellFormed_of_wireCandidate hcandidate hframe⟩
  rw [encode_of_wireCandidate hdir hcandidate, hframe]

/-! ## Decoding what the encoder writes -/

@[simp] theorem filterEnableOf_ofBool (fe : Bool) : filterEnableOf ((BitVec.ofBool fe).setWidth 8) = fe := by
  cases fe <;> rfl

@[simp] theorem auxIndexOf_setWidth (k : BitVec 2) : auxIndexOf (k.setWidth 8) = k := by revert k; decide

@[simp] theorem kindOf_setWidth (k : BitVec 2) : kindOf (k.setWidth 8) = k := by revert k; decide

/-- An operation or a reserved code is read back from its request record; one without operands by its code alone. -/
theorem decode_encode_operation (cfg : Config) (i : Instr) (hi : isOperation i = true) :
    decode cfg (encode cfg i) = .ok i := by
  cases i with
  | csfDecode fe fc => exact (decodeRequest_csfDecode _ rfl).trans (by simp)
  | ffcAux k => exact (decodeRequest_ffcAux _ rfl).trans (by simp)
  | mbcReq slave kind addr data => exact (decodeRequest_mbcReq _ rfl).trans (by simp)
  | reservedUnit11 op =>
    have hcode : ∀ x : BitVec 4, ((0b11 : BitVec 2) ++ x).extractLsb' 4 2 = 3 ∧
        ((0b11 : BitVec 2) ++ x).extractLsb' 0 4 = x := by decide
    obtain ⟨hunit, hop⟩ := hcode op
    exact (decodeRequest_reservedUnit11 _ hunit).trans (by rw [hop])
  | csfPush bs => exact decodeRequest_csfPush _ rfl
  | csfEncode cmd payload => exact decodeRequest_csfEncode _ rfl
  | ffcPush bs => exact decodeRequest_ffcPush _ rfl
  | ffcEncode cmd addr value => exact decodeRequest_ffcEncode _ rfl
  | mbcRx b => exact decodeRequest_mbcRx _ rfl
  | mbcCrcbyte b => exact decodeRequest_mbcCrcbyte _ rfl
  | wireCsfFrame | wireFfcCmdframe | wireFfcSample | wireFfcAuxEnter | wireFfcAuxExit | wireFfcAuxSuspend
  | wireFfcAuxResume | wireMbcRequest | wireMbcRespRead | wireMbcRespWrite | wireMbcRespException =>
    exact absurd hi Bool.false_ne_true
  | _ => rfl

/-- Settles O52: an operation is read back from its record, and a frame from the fields at the places where the encoder
writes them. -/
theorem decodeOfEncodeIsTheInstruction : Obligations.DecodeOfEncodeIsTheInstruction := by
  intro cfg i hok hwf
  cases i with
  | wireCsfFrame dir cmd payload =>
    refine decode_wire cfg .csfFrame dir _ _ rfl ?_ rfl
    simp [-BitVec.toNat_ofNat, wireCandidate, frameOf, csfFrameBytes, memRead_counted _ _ (of_decide_eq_true hwf)]
  | wireFfcCmdframe dir cmd addr value fixed =>
    refine decode_wire cfg .ffcCmdframe dir _ _ rfl ?_ rfl
    rw [frameOf_ffcCmdframe cfg dir cmd addr value fixed hwf]
    simp [wireCandidate, ffcFrameBytes]
  | wireFfcSample raw =>
    refine decode_wire cfg .ffcSample .receive _ _ rfl ?_ rfl
    simp [wireCandidate, frameOf, sampleBytes]
  | wireFfcAuxEnter => exact decode_wire cfg .ffcAuxEnter .transmit _ _ rfl rfl rfl
  | wireFfcAuxExit => exact decode_wire cfg .ffcAuxExit .transmit _ _ rfl rfl rfl
  | wireFfcAuxSuspend => exact decode_wire cfg .ffcAuxSuspend .transmit _ _ rfl rfl rfl
  | wireFfcAuxResume => exact decode_wire cfg .ffcAuxResume .transmit _ _ rfl rfl rfl
  | wireMbcRequest slave kind addr data =>
    refine decode_wire cfg .mbcRequest .transmit _ _ rfl ?_ rfl
    simp [wireCandidate, frameOf, mbcRequestBytes, withCrc, kindOfFunc_funcOfKind cfg hok]
  | wireMbcRespRead slave func data =>
    refine decode_wire cfg .mbcRespRead .receive _ _ rfl ?_ rfl
    simp [-BitVec.toNat_ofNat, wireCandidate, frameOf, mbcReadBytes, withCrc,
      memRead_counted _ _ (of_decide_eq_true hwf)]
  | wireMbcRespWrite slave func addr data =>
    refine decode_wire cfg .mbcRespWrite .receive _ _ rfl ?_ rfl
    simp [wireCandidate, frameOf, mbcWriteBytes, withCrc]
  | wireMbcRespException slave func code =>
    refine decode_wire cfg .mbcRespException .receive _ _ rfl ?_ rfl
    simp [wireCandidate, frameOf, mbcExceptionBytes, withCrc]
  | _ => exact decode_encode_operation cfg _ rfl

/-! ## Received frames -/

/-- A burst above `BURST_MAX` is refused before anything else is looked at (30_encoding R92, 60_exceptions R263). -/
theorem csfPush_overlong (bs : List Byte) (s : State) (h : ∃ m, s.cfg.burstMax = some m ∧ m < bs.length) :
    csfPush bs s = raise .csf .illegalOp s := by
  rw [csfPush, burstLegal_false s.cfg bs (.inr h), guarded_illegal]

theorem ffcPush_overlong (bs : List Byte) (s : State) (h : ∃ m, s.cfg.burstMax = some m ∧ m < bs.length) :
    ffcPush bs s = raise .ffc .illegalOp s := by
  rw [ffcPush, burstLegal_false s.cfg bs (.inr h), guarded_illegal]

section
variable {bs : List Byte} {s : State}

/-- A legal burst at an open unit comes to the test of the depth (40_csf_framer R131). -/
theorem csfPush_legal (hopen : s.csf.isOpen = true) (hne : bs ≠ [])
    (hmax : ∀ m, s.cfg.burstMax = some m → bs.length ≤ m) : csfPush bs s = csfPushBody bs s := by
  rw [csfPush, (burstLegal_iff s.cfg bs).2 ⟨hne, hmax⟩, guarded_open .csf _ s hopen]

theorem ffcPush_legal (hopen : s.ffc.isOpen = true) (hne : bs ≠ [])
    (hmax : ∀ m, s.cfg.burstMax = some m → bs.length ≤ m) : ffcPush bs s = ffcPushBody bs s := by
  rw [ffcPush, (burstLegal_iff s.cfg bs).2 ⟨hne, hmax⟩, guarded_open .ffc _ s hopen]

theorem csfPushBody_full (h : ∃ d, s.cfg.qdepthCsf = some d ∧ d < s.csf.q.length + bs.length) :
    csfPushBody bs s = raise .csf .queueFull s := by
  simp [csfPushBody, fits_false _ _ _ h]

theorem csfPushBody_fits (h : ∀ d, s.cfg.qdepthCsf = some d → s.csf.q.length + bs.length ≤ d) :
    csfPushBody bs s =
      s.setCsf { s.csf with q := s.csf.q ++ bs, out := s.csf.out ++ [.result okResult] } := by
  simp [csfPushBody, (fits_iff _ _ _).2 h, qAppend]

theorem ffcPushBody_full (h : ∃ d, s.cfg.qdepthFfc = some d ∧ d < s.ffc.q.length + bs.length) :
    ffcPushBody bs s = raise .ffc .queueFull s := by
  simp [ffcPushBody, fits_false _ _ _ h]

theorem ffcPushBody_fits (h : ∀ d, s.cfg.qdepthFfc = some d → s.ffc.q.length + bs.length ≤ d) :
    ffcPushBody bs s =
      s.setFfc { s.ffc with q := s.ffc.q ++ bs, out := s.ffc.out ++ [.result okResult] } := by
  simp [ffcPushBody, (fits_iff _ _ _).2 h, qAppend]

end

/-- Settles O44: a received frame is a push of its bytes, and a transmitted one the body of its operation. -/
theorem wireFramesCrossTheLinkOfTheirUnit : Obligations.WireFramesCrossTheLinkOfTheirUnit := by
  intro s
  refine ⟨fun hopen cmd payload hpayload => ?csfSent, fun i bs hi => ?csfReceived, fun i bs hi => ?ffcReceived,
    fun hopen => ⟨fun cmd value addr fixed => ?cmdSent, fun i k hi => ?auxSent⟩,
    fun hopen slave kind addr data => ?requestSent⟩
  case csfSent =>
    rw [exec_wireCsfFrame, execWireCsfFrame, csfEncode, (payloadLegal_iff payload).2 hpayload,
      guarded_open .csf _ s hopen]
    rfl
  case csfReceived =>
    obtain ⟨cmd, payload, -, rfl, rfl⟩ := hi
    have hne : csfFrameBytes cmd payload ≠ [] :=
      List.ne_nil_of_length_eq_add_one (csfFrameBytes_length cmd payload)
    have hexec : exec (.wireCsfFrame .receive cmd payload) s = .next (csfPush (csfFrameBytes cmd payload) s) := rfl
    rw [hexec]
    refine ⟨fun hover => ?_, fun hopen hmax => ⟨fun hfull => ?_, fun hfits => ?_⟩⟩
    · rw [csfPush_overlong _ s hover]; rfl
    · rw [csfPush_legal hopen hne hmax, csfPushBody_full hfull]; rfl
    · rw [csfPush_legal hopen hne hmax, csfPushBody_fits hfits]; rfl
  case ffcReceived =>
    have hreceived : bs ≠ [] ∧ exec i s = .next (ffcPush bs s) := by
      obtain ⟨cmd, addr, value, fixed, rfl, rfl⟩ | ⟨raw, rfl, rfl⟩ := hi
      · exact ⟨List.cons_ne_nil _ _, rfl⟩
      · exact ⟨List.cons_ne_nil _ _, rfl⟩
    obtain ⟨hne, hexec⟩ := hreceived
    rw [hexec]
    refine ⟨fun hover => ?_, fun hopen hmax => ⟨fun hfull => ?_, fun hfits => ?_⟩⟩
    · rw [ffcPush_overlong _ s hover]; rfl
    · rw [ffcPush_legal hopen hne hmax, ffcPushBody_full hfull]; rfl
    · rw [ffcPush_legal hopen hne hmax, ffcPushBody_fits hfits]; rfl
  case cmdSent => exact congrArg Host.Outcome.next (guarded_open .ffc (ffcEncodeBody cmd addr value) s hopen)
  case auxSent =>
    have hexec : ∀ k : BitVec 2, (.next (ffcAux k s) : Host.Outcome State Fault Refusal) = .next (ffcAuxBody k s) :=
      fun k => congrArg Host.Outcome.next (guarded_open .ffc (ffcAuxBody k) s hopen)
    obtain ⟨rfl, rfl⟩ | ⟨rfl, rfl⟩ | ⟨rfl, rfl⟩ | ⟨rfl, rfl⟩ := hi
    · exact hexec 0
    · exact hexec 1
    · exact hexec 2
    · exact hexec 3
  case requestSent =>
    rw [exec_wireMbcRequest, execWireMbcRequest, mbcReq, kindOfCode_kindCode]
    exact congrArg Host.Outcome.next (guarded_open .mbc (mbcReqBody slave kind addr data) s hopen)

/-! ## Whole responses -/

/-- The required length of a whole response, from its second and third bytes (42_mbc_crc16 R190). -/
theorem mbRequired_withCrc (cfg : Config) (expFunc slave func third : Byte) (more : List Byte) :
    mbRequired cfg expFunc (withCrc (slave :: func :: third :: more)) = mbRespLen cfg func third expFunc := rfl

/-- A response of the required length, of the expected slave and with its own CRC: the function byte and the expected
function are left to test (42_mbc_crc16 R192). -/
theorem mbCheck_withCrc (cfg : Config) (expFunc slave func third : Byte) (more : List Byte)
    (hlen : more.length + 5 = mbRespLen cfg func third expFunc) :
    let r := withCrc (slave :: func :: third :: more)
    mbCheck cfg slave expFunc r =
      if func.getLsbD 7 then .exception func third
      else if func ≠ expFunc then .funcMismatch func
      else if expFunc = cfg.mbFcReadHolding then .readOk slave func third (memRead r 3 third.toNat)
      else .writeOk slave func (joinBytes (memByte r 2) (memByte r 3)) (joinBytes (memByte r 4) (memByte r 5)) := by
  intro r
  have hverdict := mbCheck_body cfg slave expFunc slave func third (loByte (crc16 (slave :: func :: third :: more)))
    (hiByte (crc16 (slave :: func :: third :: more))) more hlen
  rw [joinBytes_hi_lo, if_neg (not_not_intro rfl), if_neg (not_not_intro rfl)] at hverdict
  exact hverdict

/-- A response of the required length, received while its transaction waits, is collected up to its last byte and then
gets its verdict (42_mbc_crc16 R191). -/
theorem mbcRxAll_withCrc {s : State} (hopen : s.mbc.isOpen = true) (hbusy : s.mbc.busy = true) (hempty : s.mbc.r = [])
    {slave func third : Byte} (more : List Byte) {v : Verdict}
    (hlen : more.length + 5 = mbRespLen s.cfg func third s.mbc.expFunc)
    (hv : mbCheck s.cfg s.mbc.expSlave s.mbc.expFunc (withCrc (slave :: func :: third :: more)) = v) :
    mbcRxAll (withCrc (slave :: func :: third :: more)) s = s.setMbc { s.mbc with
      busy := false
      out := s.mbc.out ++ (List.replicate (more.length + 4) (.result ⟨.ok, .incomplete⟩) ++
        [.result (verdictResult v)]) } := by
  have hlength : (withCrc (slave :: func :: third :: more)).length = more.length + 5 := withCrc_length _
  have hrequired := hlength.trans (hlen.trans (mbRequired_withCrc s.cfg s.mbc.expFunc slave func third more).symm)
  rw [mbcRxAll_response _ s hopen hbusy hempty hrequired, hv, hlength, Nat.add_sub_assoc (by decide), ← hempty]

/-! The three layouts of 30_encoding R88: each has the length required of it, and gets the verdict its function byte
calls for. -/

section
variable {cfg : Config} {expFunc : Byte} (slave : Byte) (func : BitVec 7)

theorem mbRespLen_plain_read (third : Byte) (hread : expFunc = cfg.mbFcReadHolding) :
    mbRespLen cfg (plainFunc func) third expFunc = 5 + third.toNat := by
  rw [mbRespLen, plainFunc_bit7, if_neg Bool.false_ne_true, if_pos hread]

theorem mbRespLen_plain_write (third : Byte) (hwrite : expFunc ≠ cfg.mbFcReadHolding) :
    mbRespLen cfg (plainFunc func) third expFunc = 8 := by
  rw [mbRespLen, plainFunc_bit7, if_neg Bool.false_ne_true, if_neg hwrite]

theorem mbRespLen_exception (third : Byte) : mbRespLen cfg (exceptionFunc func) third expFunc = 5 := by
  rw [mbRespLen, exceptionFunc_bit7, if_pos rfl]

theorem mbRespLen_counted (data : List Byte) (hread : expFunc = cfg.mbFcReadHolding) (hdata : data.length ≤ 255) :
    data.length + 5 = mbRespLen cfg (plainFunc func) (BitVec.ofNat 8 data.length) expFunc := by
  rw [mbRespLen_plain_read func _ hread, BitVec.toNat_ofNat]
  omega

theorem mbCheck_readBytes (data : List Byte) (hread : expFunc = cfg.mbFcReadHolding) (hfunc : expFunc = plainFunc func)
    (hdata : data.length ≤ 255) :
    mbCheck cfg slave expFunc (mbcReadBytes slave func data) =
      .readOk slave expFunc (BitVec.ofNat 8 data.length) data := by
  refine (mbCheck_withCrc cfg expFunc slave _ _ data (mbRespLen_counted func data hread hdata)).trans ?_
  rw [plainFunc_bit7, if_neg Bool.false_ne_true, if_neg (not_not_intro hfunc.symm), if_pos hread, ← hfunc, withCrc]
  exact congrArg _ (memRead_counted data _ hdata)

theorem mbCheck_writeBytes (addr data : Half) (hwrite : expFunc ≠ cfg.mbFcReadHolding)
    (hfunc : expFunc = plainFunc func) :
    mbCheck cfg slave expFunc (mbcWriteBytes slave func addr data) = .writeOk slave expFunc addr data := by
  refine (mbCheck_withCrc cfg expFunc slave _ _ [loByte addr, hiByte data, loByte data]
    (mbRespLen_plain_write func _ hwrite).symm).trans ?_
  rw [plainFunc_bit7, if_neg Bool.false_ne_true, if_neg (not_not_intro hfunc.symm), if_neg hwrite, ← hfunc]
  exact congrArg₂ (Verdict.writeOk slave expFunc) (joinBytes_hi_lo addr) (joinBytes_hi_lo data)

theorem mbCheck_exceptionBytes (code : Byte) :
    mbCheck cfg slave expFunc (mbcExceptionBytes slave func code) = .exception (exceptionFunc func) code := by
  refine (mbCheck_withCrc cfg expFunc slave _ _ [] (mbRespLen_exception func _).symm).trans ?_
  rw [exceptionFunc_bit7, if_pos rfl]

end

/-- Settles O43: the bytes of each layout are collected to the required length, and then checked. -/
theorem wholeResponsesGetTheirVerdict : Obligations.WholeResponsesGetTheirVerdict := by
  rintro s slave func - hopen hbusy hempty rfl
  refine ⟨fun data hdata hread hfunc => congrArg Host.Outcome.next ?read,
    fun addr data hwrite hfunc => congrArg Host.Outcome.next ?write,
    fun code => congrArg Host.Outcome.next ?exception⟩
  case read =>
    exact mbcRxAll_withCrc hopen hbusy hempty data (mbRespLen_counted func data hread hdata)
      (mbCheck_readBytes s.mbc.expSlave func data hread hfunc hdata)
  case write =>
    exact mbcRxAll_withCrc hopen hbusy hempty [loByte addr, hiByte data, loByte data]
      (mbRespLen_plain_write func _ hwrite).symm (mbCheck_writeBytes s.mbc.expSlave func addr data hwrite hfunc)
  case exception =>
    exact mbcRxAll_withCrc hopen hbusy hempty [] (mbRespLen_exception func _).symm
      (mbCheck_exceptionBytes s.mbc.expSlave func code)

end Sys2Proof.Machine
end

section
/-! Proofs for spec/40_csf_framer.md: the decode pass case by case (R124 to R129), the streams of frames it reads
(R134, R137, R138), the operations of unit CSF (R122, R123, R130 to R133), and bytes received on a link (R131). -/

namespace Sys2Proof.Machine

/-! ## The scan and the waits -/

/-- Settles O12, from the two outcomes of the scan. -/
theorem csfPassScansForTheFirstSync : Obligations.CsfPassScansForTheFirstSync := by
  refine fun q => ⟨fun hnone => ?_, fun p hp hleast => ?_⟩
  · exact csfDecodePass_no_sync q ((syncIndex_none_iff q).2 hnone)
  · exact csfDecodePass_drop q p ((syncIndex_some_iff q p).2 ⟨hp, hleast⟩)

/-- The length of the candidate at the head of a queue, from its `LEN` byte (30_encoding R82). -/
theorem csfTotal_of_getElem? {q : List Byte} {l : Byte} (h : q[3]? = some l) : csfTotal q = 5 + l.toNat := by
  rw [csfTotal, memByte, List.getD_eq_getElem?_getD, h, Option.getD_some]

/-- Settles O13: a queue shorter than its candidate waits. -/
theorem csfPassWaitsForAWholeFrame : Obligations.CsfPassWaitsForAWholeFrame := by
  refine fun q hsync => ⟨fun hshort => ?_, fun l hl hshort => ?_⟩
  · exact csfDecodePass_waits q hsync (.inl hshort)
  · exact csfDecodePass_waits q hsync (.inr (csfTotal_of_getElem? hl ▸ hshort))

theorem csfTotal_le (q : List Byte) : csfTotal q ≤ 260 := by
  have := (memByte q 3).isLt
  rw [csfTotal]
  omega

/-- Settles O17: what a pass leaves is shorter than some frame, and no frame is longer than 260 bytes. -/
theorem csfPassOnAFullQueueFreesSpace : Obligations.CsfPassOnAFullQueueFreesSpace := by
  refine fun q => ⟨csfDecodePass_suffix q, fun hfull => ?_⟩
  have htotal := csfTotal_le (csfDecodePass q).1
  obtain hshort | hshort := csfDecodePass_left_short q
  · rw [csfMinFrame] at hshort
    omega
  · omega

/-! ## The checksum -/

/-- The checksum of a frame as R133 writes it: `0x82` is the sum of the two sync bytes modulo 256. -/
theorem sum8_frame (cmd len : Byte) (value : List Byte) :
    sum8 ([csfSync1, csfSync2, cmd, len] ++ value) =
      BitVec.ofNat 8 (0x82 + cmd.toNat + len.toNat + (value.map BitVec.toNat).sum) := by
  have h1 : csfSync1.toNat = 235 := rfl
  have h2 : csfSync2.toNat = 151 := rfl
  rw [sum8_eq]
  apply BitVec.eq_of_toNat_eq
  simp only [List.map_append, List.sum_append, List.map_cons, List.sum_cons, List.map_nil, List.sum_nil,
    BitVec.toNat_ofNat, h1, h2]
  omega

theorem sum8_cons (b : Byte) (bs : List Byte) : sum8 (b :: bs) = b + sum8 bs := by
  apply BitVec.eq_of_toNat_eq
  simp [sum8_eq, BitVec.toNat_add]

/-- One changed byte changes the sum (R135). -/
theorem sum8_set_ne {bs : List Byte} {i : Nat} {v : Byte} (hi : i < bs.length) (hv : bs[i]? ≠ some v) :
    sum8 (bs.set i v) ≠ sum8 bs := by
  induction bs generalizing i with
  | nil => exact absurd hi (Nat.not_lt_zero i)
  | cons b bs ih =>
    cases i with
    | zero =>
      rw [List.set_cons_zero, sum8_cons, sum8_cons, ne_eq, BitVec.add_left_inj]
      rintro rfl
      exact hv rfl
    | succ i =>
      rw [List.set_cons_succ, sum8_cons, sum8_cons, ne_eq, BitVec.add_right_inj]
      exact ih (Nat.lt_of_succ_lt_succ hi) hv

/-! ## A whole candidate at the head of the queue -/

section
variable {cmd len chk : Byte} {value : List Byte}

/-- S5 on a whole candidate: its checksum decides (R127, R128). -/
theorem csfDecodePass_candidate (hv : value.length = len.toNat) (rest : List Byte) :
    csfDecodePass ([csfSync1, csfSync2, cmd, len] ++ value ++ chk :: rest) =
      if sum8 ([csfSync1, csfSync2, cmd, len] ++ value) = chk then
        if 5 ≤ rest.length then ((csfDecodePass rest).1, ⟨cmd, value⟩ :: (csfDecodePass rest).2)
        else (rest, [⟨cmd, value⟩])
      else csfDecodePass ([csfSync2, cmd, len] ++ value ++ chk :: rest) := by
  obtain ⟨hsync, htotal, hlen, hchecks, hframe, hdrop⟩ := csfCandidate_reads cmd len chk value rest hv
  rw [csfDecodePass_sync _ hsync, if_neg (by rw [csfMinFrame]; omega), if_neg (by omega), hchecks, hframe, hdrop]
  simp only [beq_iff_eq]
  rfl

theorem csfDecodePass_candidate_checked (hv : value.length = len.toNat)
    (hchk : sum8 ([csfSync1, csfSync2, cmd, len] ++ value) = chk) (rest : List Byte) :
    csfDecodePass ([csfSync1, csfSync2, cmd, len] ++ value ++ chk :: rest) =
      if 5 ≤ rest.length then ((csfDecodePass rest).1, ⟨cmd, value⟩ :: (csfDecodePass rest).2)
      else (rest, [⟨cmd, value⟩]) :=
  (csfDecodePass_candidate hv rest).trans (if_pos hchk)

theorem csfDecodePass_candidate_mismatch (hv : value.length = len.toNat)
    (hchk : sum8 ([csfSync1, csfSync2, cmd, len] ++ value) ≠ chk) (rest : List Byte) :
    csfDecodePass ([csfSync1, csfSync2, cmd, len] ++ value ++ chk :: rest) =
      csfDecodePass ([csfSync2, cmd, len] ++ value ++ chk :: rest) :=
  (csfDecodePass_candidate hv rest).trans (if_neg hchk)

end

/-- Settles O14: the candidate has the right checksum, and five bytes behind it decide whether the pass goes on. -/
theorem csfPassYieldsACheckedFrame : Obligations.CsfPassYieldsACheckedFrame := by
  intro cmd len chk value rest hv hchk
  have hpass := csfDecodePass_candidate_checked hv ((sum8_frame cmd len value).trans hchk.symm) rest
  exact ⟨fun h => hpass.trans (if_pos h), fun h => hpass.trans (if_neg (Nat.not_le_of_lt h))⟩

/-- Settles O15: the candidate has a wrong checksum. -/
theorem csfPassDropsOneByteOnAMismatch : Obligations.CsfPassDropsOneByteOnAMismatch := by
  intro cmd len chk value rest hv hchk
  exact csfDecodePass_candidate_mismatch hv (fun h => hchk (h.symm.trans (sum8_frame cmd len value))) rest

/-! ## Encoded frames in a queue -/

/-- A payload's length is read back from the `LEN` byte that carries it (30_encoding R92). -/
theorem toNat_lenByte {payload : List Byte} (hp : payload.length ≤ 255) :
    payload.length = (BitVec.ofNat 8 payload.length).toNat := by
  rw [BitVec.toNat_ofNat, Nat.mod_eq_of_lt (by omega)]

/-- An encoded frame with nothing behind it, or with enough to go on, is yielded and removed. -/
theorem csfDecodePass_frame (cmd : Byte) {payload rest : List Byte} (hp : payload.length ≤ 255)
    (hrest : rest = [] ∨ 5 ≤ rest.length) :
    csfDecodePass (csfFrameBytes cmd payload ++ rest) =
      ((csfDecodePass rest).1, ⟨cmd, payload⟩ :: (csfDecodePass rest).2) := by
  rw [csfFrameBytes_eq, List.append_assoc, List.singleton_append,
    csfDecodePass_candidate_checked (toNat_lenByte hp) rfl]
  obtain rfl | h5 := hrest
  · rfl
  · rw [if_pos h5]

theorem csfDecodePass_single (cmd : Byte) {payload : List Byte} (hp : payload.length ≤ 255) :
    csfDecodePass (csfFrameBytes cmd payload) = ([], [⟨cmd, payload⟩]) := by
  have h := csfDecodePass_frame cmd hp (.inl rfl)
  rwa [List.append_nil] at h

/-- Settles O19, by induction on the list of frames: behind a frame there is nothing or at least another frame. -/
theorem csfPassDecodesAnyStreamOfFrames : Obligations.CsfPassDecodesAnyStreamOfFrames := by
  intro fs
  induction fs with
  | nil => exact fun _ => rfl
  | cons f fs ih =>
    intro hfs
    obtain ⟨hf, htail⟩ := List.forall_mem_cons.1 hfs
    have hrest : fs.flatMap (fun f => csfFrameBytes f.command f.payload) = [] ∨
        5 ≤ (fs.flatMap fun f => csfFrameBytes f.command f.payload).length := by
      cases fs with
      | nil => exact .inl rfl
      | cons g fs =>
        rw [List.flatMap_cons, List.length_append, csfFrameBytes_length]
        exact .inr (by omega)
    rw [List.flatMap_cons, csfDecodePass_frame f.command hf hrest, ih htail]

/-- Settles O21: the garbage has no sync, and the frame behind it does not begin with the second sync byte. -/
theorem csfGarbageInFrontOfAFrameIsDiscarded : Obligations.CsfGarbageInFrontOfAFrameIsDiscarded := by
  intro garbage hgarbage
  refine ⟨csfDecodePass_no_sync _ ((syncIndex_none_iff _).2 hgarbage), fun cmd payload hp => ?_⟩
  have hhead : (csfFrameBytes cmd payload)[0]? ≠ some csfSync2 := by simp [csfFrameBytes, csfSync1, csfSync2]
  rw [csfDecodePass_append _ _ hgarbage hhead, csfDecodePass_single cmd hp]

/-! ## A frame with one changed byte -/

/-- A frame with a wrong checksum and no sync behind its first byte is lost alone: the byte dropped on the mismatch
leaves garbage (R128, R138). -/
theorem csfDecodePass_damaged {cmd len chk : Byte} {value rest : List Byte} (hv : value.length = len.toNat)
    (hchk : sum8 ([csfSync1, csfSync2, cmd, len] ++ value) ≠ chk)
    (hsync : ∀ j, ¬ syncAt ([csfSync1, csfSync2, cmd, len] ++ value ++ [chk]) (j + 1))
    (hrest : rest[0]? ≠ some csfSync2) :
    csfDecodePass ([csfSync1, csfSync2, cmd, len] ++ value ++ [chk] ++ rest) = csfDecodePass rest := by
  have htail : ∀ j, ¬ syncAt ([csfSync2, cmd, len] ++ value ++ [chk]) j := fun j hj =>
    hsync j ((syncAt_cons_succ csfSync1 _ j).2 hj)
  have hmismatch := csfDecodePass_candidate_mismatch hv hchk rest
  rw [List.append_assoc, List.singleton_append, hmismatch, ← csfDecodePass_append _ rest htail hrest,
    List.append_assoc _ [chk], List.singleton_append]

/-- A changed sync byte leaves no sync at the head of a frame. -/
theorem not_syncAt_set_zero {bs : List Byte} {i : Nat} {v : Byte} (hsync : syncAt bs 0) (hi : i < 2)
    (hv : bs[i]? ≠ some v) : ¬ syncAt (bs.set i v) 0 := by
  obtain ⟨rest, rfl⟩ := (syncAt_zero_iff bs).1 hsync
  rintro ⟨h0, h1⟩
  interval_cases i
  · exact hv h0.symm
  · exact hv h1.symm

/-- Behind the sync, and but for `LEN`, a changed byte is another command or is in another payload of the same
length. -/
theorem csfBody_set (cmd len v : Byte) (value : List Byte) {i : Nat} (h2 : 2 ≤ i) (h3 : i ≠ 3) :
    ∃ cmd' value', ([csfSync1, csfSync2, cmd, len] ++ value).set i v = [csfSync1, csfSync2, cmd', len] ++ value' ∧
      value'.length = value.length := by
  match i with
  | 2 => exact ⟨v, value, rfl, rfl⟩
  | k + 4 => exact ⟨cmd, value.set k v, rfl, List.length_set⟩

/-- So a frame with such a byte changed, or with its checksum changed, is a candidate of the same length whose checksum
does not match (R135). -/
theorem csfFrameBytes_set {cmd v : Byte} {payload : List Byte} {i : Nat} (h2 : 2 ≤ i) (h3 : i ≠ 3)
    (hi : i < payload.length + 5) (hv : (csfFrameBytes cmd payload)[i]? ≠ some v) :
    ∃ (cmd' : Byte) (value : List Byte) (chk : Byte),
      (csfFrameBytes cmd payload).set i v =
        [csfSync1, csfSync2, cmd', BitVec.ofNat 8 payload.length] ++ value ++ [chk] ∧
      value.length = payload.length ∧
      sum8 ([csfSync1, csfSync2, cmd', BitVec.ofNat 8 payload.length] ++ value) ≠ chk := by
  obtain ⟨cmd', value, hset, hvalue⟩ := csfBody_set cmd (BitVec.ofNat 8 payload.length) v payload h2 h3
  rw [csfFrameBytes_eq] at hv ⊢
  generalize hbody : [csfSync1, csfSync2, cmd, BitVec.ofNat 8 payload.length] ++ payload = body at hset hv ⊢
  have hlen : body.length = payload.length + 4 := by simp [← hbody]
  by_cases hlast : i < body.length
  · have hsum := sum8_set_ne hlast (by rwa [List.getElem?_append_left hlast] at hv)
    exact ⟨cmd', value, sum8 body, by rw [List.set_append_left i v hlast, hset], hvalue, hset ▸ hsum⟩
  · obtain rfl : i = body.length := by omega
    refine ⟨cmd, payload, v, by simp [hbody], rfl, ?_⟩
    rw [hbody]
    rintro rfl
    exact hv (by simp)

/-- Settles O22: a changed sync byte leaves no sync at all, and any other changed byte but `LEN` a wrong checksum. -/
theorem csfOneChangedByteLosesOneFrame : Obligations.CsfOneChangedByteLosesOneFrame := by
  intro cmd v payload rest i hp hi hi3 hv hsync hrest
  have hhead : rest[0]? ≠ some csfSync2 := by
    obtain rfl | hrest := hrest
    · exact nofun
    · rw [hrest]
      decide
  have hstart : syncAt (csfFrameBytes cmd payload) 0 := by simp [syncAt, csfFrameBytes]
  by_cases hi2 : i < 2
  · refine csfDecodePass_append _ rest (fun j => ?_) hhead
    cases j with
    | zero => exact not_syncAt_set_zero hstart hi2 hv
    | succ j => exact hsync (j + 1) (Nat.succ_pos j)
  · obtain ⟨cmd', value, chk, hset, hvalue, hchk⟩ := csfFrameBytes_set (by omega) hi3 hi hv
    rw [hset] at hsync ⊢
    exact csfDecodePass_damaged (hvalue.trans (toNat_lenByte hp)) hchk (fun j => hsync (j + 1) (Nat.succ_pos j)) hhead

/-! ## The operations of unit CSF -/

/-- Settles O7: opening and closing. -/
theorem csfOpenAndCloseEmptyTheQueue : Obligations.CsfOpenAndCloseEmptyTheQueue := by
  refine fun s => ⟨rfl, fun hopen => ?_, fun hclosed => ?_⟩
  · exact congrArg Host.Outcome.next (guarded_open .csf csfCloseBody s hopen)
  · exact next_guarded_closed .csf true csfCloseBody s rfl hclosed

/-- Settles O9, in each unit for an open and a closed link. -/
theorem clearEmptiesTheQueueWithoutEvent : Obligations.ClearEmptiesTheQueueWithoutEvent := by
  refine fun s => ⟨fun hopen => ?_, fun hclosed => ?_, fun hopen => ?_, fun hclosed => ?_⟩
  · exact congrArg Host.Outcome.next (guarded_open .csf csfClearBody s hopen)
  · exact next_guarded_closed .csf true csfClearBody s rfl hclosed
  · exact congrArg Host.Outcome.next (guarded_open .ffc ffcClearBody s hopen)
  · exact next_guarded_closed .ffc true ffcClearBody s rfl hclosed

theorem exec_csfPush_fits {s : State} {bs : List Byte} (hopen : s.csf.isOpen = true) (hne : bs ≠ [])
    (hmax : ∀ m, s.cfg.burstMax = some m → bs.length ≤ m)
    (hfits : ∀ d, s.cfg.qdepthCsf = some d → s.csf.q.length + bs.length ≤ d) :
    exec (.csfPush bs) s =
      .next (s.setCsf { s.csf with q := s.csf.q ++ bs, out := s.csf.out ++ [.result okResult] }) := by
  rw [exec_csfPush, execCsfPush, csfPush_legal hopen hne hmax, csfPushBody_fits hfits]

/-- Settles O8, in the order of the tests: the burst, the link, the depth. -/
theorem csfPushAppendsAllOrNothing : Obligations.CsfPushAppendsAllOrNothing := by
  intro s bs
  refine ⟨fun hillegal => ?illegal, fun hne hmax => ⟨fun hclosed => ?closed, fun hopen hfull => ?full,
    fun hopen hfits => exec_csfPush_fits hopen hne hmax hfits⟩⟩
  all_goals rw [exec_csfPush, execCsfPush]
  case illegal =>
    rw [csfPush, burstLegal_false s.cfg bs hillegal, guarded_illegal]
    rfl
  case closed =>
    exact next_guarded_closed .csf _ _ s ((burstLegal_iff s.cfg bs).2 ⟨hne, hmax⟩) hclosed
  case full =>
    rw [csfPush_legal hopen hne hmax, csfPushBody_full hfull]
    rfl

theorem csfEncode_open {payload : List Byte} {s : State} (cmd : Byte) (hp : payload.length ≤ 255)
    (hopen : s.csf.isOpen = true) : csfEncode cmd payload s = csfEncodeBody cmd payload s := by
  rw [csfEncode, (payloadLegal_iff payload).2 hp, guarded_open .csf _ s hopen]

/-- Settles O10, in the order of the tests: the payload, the link; the checksum is `sum8_frame`. -/
theorem csfEncodeTransmitsTheChecksummedFrame : Obligations.CsfEncodeTransmitsTheChecksummedFrame := by
  intro s cmd payload
  refine ⟨fun hlong => ?illegal, fun hp hclosed => ?closed, fun hp hopen => ?sent⟩
  all_goals rw [exec_csfEncode, execCsfEncode]
  case illegal =>
    have hillegal : payloadLegal payload = false := decide_eq_false (Nat.not_le_of_lt hlong)
    rw [csfEncode, hillegal, guarded_illegal]
    rfl
  case closed => exact next_guarded_closed .csf _ _ s ((payloadLegal_iff payload).2 hp) hclosed
  case sent =>
    have hsum := sum8_frame cmd (BitVec.ofNat 8 payload.length) payload
    rw [← toNat_lenByte hp] at hsum
    rw [csfEncode_open cmd hp hopen, ← hsum]
    rfl

/-- A decode operation of an open unit delivers what the pass over its queue returns (R120, R124). -/
theorem exec_csfDecode_pass {s : State} {left : List Byte} {fs : List Frame} (hopen : s.csf.isOpen = true)
    (hpass : csfDecodePass s.csf.q = (left, fs)) (fe : Bool) (fc : Byte) :
    exec (.csfDecode fe fc) s = .next (s.setCsf { s.csf with
      q := left
      out := s.csf.out ++ ((fs.map frameEvent).map .event ++
        [.result ⟨.ok, .decoded (matchedFlag fe fc (fs.map Frame.command)) fs.length⟩]) }) := by
  rw [exec_csfDecode, execCsfDecode, guarded_open .csf (csfDecodeBody fe fc) s hopen, csfDecodeBody, hpass]
  rfl

/-- Settles O11: `exec_csfDecode_pass`, with the frames' events written out. -/
theorem csfDecodeDeliversThePass : Obligations.CsfDecodeDeliversThePass := by
  refine fun s fe fc => ⟨fun hclosed => ?_, fun hopen => ?_⟩
  · exact next_guarded_closed .csf true (csfDecodeBody fe fc) s rfl hclosed
  · refine ⟨matchedFlag fe fc ((csfDecodePass s.csf.q).2.map Frame.command), ?_⟩
    rw [exec_csfDecode_pass hopen (Prod.eta _).symm fe fc, List.append_assoc, List.map_map]
    rfl

/-- `matched` in terms of the events: the filter is on and a frame of the expected command is among them (R130). -/
theorem matchedFlag_iff (fe : Bool) (fc : Byte) (fs : List Frame) :
    matchedFlag fe fc (fs.map Frame.command) = true ↔
      fe = true ∧ ∃ p, .frameReceived fc p true ∈ fs.map frameEvent := by
  have hframe : (∃ f ∈ fs, f.command = fc) ↔ ∃ p, .frameReceived fc p true ∈ fs.map frameEvent := by
    constructor
    · rintro ⟨f, hf, rfl⟩
      exact ⟨f.payload, List.mem_map_of_mem hf⟩
    · rintro ⟨p, hp⟩
      obtain ⟨f, hf, hevent⟩ := List.mem_map.1 hp
      cases hevent
      exact ⟨f, hf, rfl⟩
  rw [← hframe]
  simp [matchedFlag]

/-- Settles O18: only `matched` is computed from the filter. -/
theorem csfFilterChangesOnlyMatched : Obligations.CsfFilterChangesOnlyMatched := by
  intro s fe fc hopen
  have hdecode := exec_csfDecode_pass hopen (Prod.eta (csfDecodePass s.csf.q)).symm
  rw [← List.length_map (as := (csfDecodePass s.csf.q).2) frameEvent] at hdecode
  exact ⟨_, _, _, hdecode fe fc, rfl, matchedFlag_iff fe fc _, fun fe' fc' => ⟨_, _, hdecode fe' fc', rfl, rfl⟩⟩

/-- Settles O20: the frame transmitted fits the empty queue of a legal depth, and the pass over it is the frame. -/
theorem csfEncodeThenDecodeRoundTrip : Obligations.CsfEncodeThenDecodeRoundTrip := by
  intro s cmd payload fe fc hok hopen hempty hp hburst
  have hlen := csfFrameBytes_length cmd payload
  have hencode : exec (.csfEncode cmd payload) s = .next (csfEncodeBody cmd payload s) :=
    congrArg Host.Outcome.next (csfEncode_open cmd hp hopen)
  have hfits : ∀ d, s.cfg.qdepthCsf = some d → s.csf.q.length + (csfFrameBytes cmd payload).length ≤ d := by
    intro d hd
    obtain ⟨-, -, -, hdepth, -⟩ := hok
    have := hdepth d hd
    rw [hempty, hlen, List.length_nil]
    omega
  obtain ⟨u, hpush, huopen, huq⟩ : ∃ u,
      exec (.csfPush (csfFrameBytes cmd payload)) (csfEncodeBody cmd payload s) = .next u ∧
      u.csf.isOpen = true ∧ u.csf.q = s.csf.q ++ csfFrameBytes cmd payload :=
    ⟨_, exec_csfPush_fits (s := csfEncodeBody cmd payload s) hopen (List.ne_nil_of_length_eq_add_one hlen)
      (fun m hm => hlen ▸ hburst m hm) hfits, hopen, rfl⟩
  have hpass : csfDecodePass u.csf.q = ([], [⟨cmd, payload⟩]) := by
    rw [huq, hempty, List.nil_append, csfDecodePass_single cmd hp]
  exact ⟨_, u, _, csfFrameBytes cmd payload, matchedFlag fe fc [cmd], hencode, rfl, hpush,
    exec_csfDecode_pass huopen hpass fe fc, rfl, rfl⟩

/-! ## Bytes received on a link -/

/-- A received item reaches the unit of its link, whatever its bytes are. -/
theorem step_received {s : State} {format : WireFormat} {bs : List Byte} (hok : s.cfg.Ok)
    (hpin : s.host.resetPin = false) (haccepted : s.host.accepted = some (.wire format .receive bs)) :
    step s = .next (receiveBytes (formatUnit format) bs (retire s)) :=
  (step_runs s _ hok hpin haccepted).trans (runItem_received format bs (retire s))

/-- The bytes of a response are received as the operations on each of them (43_host_sequences R228). -/
theorem afterAll_mbcRx (bs : List Byte) (s : State) : afterAll (bs.map .mbcRx) s = mbcRxAll bs s := by
  rw [afterAll, List.foldl_map]
  rfl

/-- Settles O60: a received item by the unit of its link, and one to be transmitted because it decodes to nothing. -/
theorem receivedBytesReachTheirUnit : Obligations.ReceivedBytesReachTheirUnit := by
  rintro s r format bs hok hpin rfl
  refine ⟨fun haccepted => ?received, fun haccepted hnone => ?transmitted⟩
  case received =>
    rw [step_received hok hpin haccepted, afterAll_mbcRx]
    refine ⟨fun hcsf => ?csf, fun hffc => ?ffc, fun hmbc => ?mbc⟩
    case csf => rw [hcsf]; rfl
    case ffc =>
      have hunit : ∀ f ∈ [WireFormat.ffcCmdframe, .ffcSample, .ffcAuxEnter, .ffcAuxExit, .ffcAuxSuspend,
          .ffcAuxResume], formatUnit f = .ffc := by decide
      rw [hunit format hffc]
      rfl
    case mbc =>
      have hunit : ∀ f ∈ [WireFormat.mbcRequest, .mbcRespRead, .mbcRespWrite, .mbcRespException],
          formatUnit f = .mbc := by decide
      rw [hunit format hmbc]
      rfl
  case transmitted =>
    cases hdecode : decode s.cfg (.wire format .transmit bs) with
    | ok i => exact absurd hdecode (hnone i)
    | error e =>
      calc step s = runItem (.wire format .transmit bs) (retire s) := step_runs s _ hok hpin haccepted
        _ = .next (raise (formatUnit format) .illegalOp (retire s)) := runItem_error _ e (retire s) hdecode
        _ = _ := congrArg Host.Outcome.next (raise_withOut _ _ _)

end Sys2Proof.Machine
end

section
/-! Proofs for spec/41_ffc_codec.md: the telemetry tests (R154, R165, R166), the classify step and the decode pass (R152,
R153, R156, R162), and the operations of unit FFC (R151, R157, R159 to R161, R163). -/

namespace Sys2Proof.Machine

/-! ## The telemetry sample -/

theorem joinBytes_toNat (h l : Byte) : (joinBytes h l).toNat = 256 * h.toNat + l.toNat := by
  rw [joinBytes, BitVec.toNat_append, ← Nat.shiftLeft_add_eq_or_of_lt l.isLt, Nat.shiftLeft_eq, Nat.mul_comm]

/-- The two's-complement reading of a pair (41_ffc_codec R165). -/
theorem rawOf_eq (h l : Byte) :
    rawOf h l = if 256 * h.toNat + l.toNat < 32768 then (256 * h.toNat + l.toNat : Int)
      else 256 * h.toNat + l.toNat - 65536 := by
  rw [rawOf, BitVec.toInt_eq_toNat_cond, joinBytes_toNat]
  split <;> split <;> omega

/-- Settles O28: the tests are those of the model, on the value `rawOf_eq` computes. -/
theorem ffcSampleTestsInOrder : Obligations.FfcSampleTestsInOrder :=
  fun _ h l => ⟨rawOf h l, rawOf_eq h l, rfl⟩

/-- A pair is emitted as a sample exactly when it passes the three tests (R154). -/
theorem telemSample_mem_sampleEvents (cfg : Config) (h l : Byte) (raw : Int) :
    .telemSample raw ∈ sampleEvents cfg h l ↔
      raw = rawOf h l ∧ ¬ (h = ffcNoReading ∧ l = ffcNoReading) ∧ cfg.telemMinRaw ≤ raw ∧ raw ≤ cfg.telemMaxRaw := by
  rw [sampleEvents]
  split
  · next hno => simp [hno]
  · next hno =>
    split
    · next hband =>
      simp only [List.mem_singleton, reduceCtorEq, false_iff]
      rintro ⟨rfl, -, hmin, hmax⟩
      omega
    · next hband =>
      simp only [List.mem_singleton, Event.telemSample.injEq]
      refine ⟨?_, And.left⟩
      rintro rfl
      exact ⟨rfl, hno, by omega, by omega⟩

/-- Settles O33: such a pair is classified as a sample, and `telemSample_mem_sampleEvents` with the default band. -/
theorem ffcSampleIsEmittedExactlyInBand : Obligations.FfcSampleIsEmittedExactlyInBand := by
  intro h l rest hn
  rw [classifyQueue_sample Config.standard h l rest hn]
  refine ⟨rfl, rfl, telemSample_mem_sampleEvents Config.standard h l, ?_⟩
  rintro ⟨rfl, rfl⟩
  rfl

/-! ## The decode pass -/

/-- A unit at the head of the queue is taken by one round of the pass. -/
theorem ffcDecodePass_of_classifyQueue {cfg : Config} {q rest : List Byte} {n : Nat} {es : List Event}
    (hq : 2 ≤ q.length) (h : classifyQueue cfg q = ⟨n, es, rest⟩) :
    ffcDecodePass cfg q =
      ((ffcDecodePass cfg rest).1 + 1, es ++ (ffcDecodePass cfg rest).2.1, (ffcDecodePass cfg rest).2.2) := by
  rw [ffcDecodePass_round cfg q hq, h]

theorem classifyQueue_ffcFrameBytes (cfg : Config) (cmd : Byte) (addr : Half) (value : Byte) (fixed : FixedBytes)
    (rest : List Byte) :
    classifyQueue cfg (ffcFrameBytes cmd addr value fixed ++ rest) =
      ⟨8, [.cmdFrame cmd addr value fixed.lenByte fixed.trailer], rest⟩ := by
  rw [ffcFrameBytes, classifyQueue_frame, joinBytes_hi_lo]

/-- Settles O31, by induction on the list of units: each is taken whole, whatever stands behind it. -/
theorem ffcPassDecodesAnyStreamOfWholeUnits : Obligations.FfcPassDecodesAnyStreamOfWholeUnits := by
  intro cfg us
  induction us with
  | nil => exact fun _ => rfl
  | cons u us ih =>
    intro hus
    obtain ⟨hu, htail⟩ := List.forall_mem_cons.1 hus
    have htaken : 2 ≤ u.1.length ∧
        ∃ n, classifyQueue cfg (u.1 ++ us.flatMap Prod.fst) = ⟨n, u.2, us.flatMap Prod.fst⟩ := by
      obtain ⟨cmd, value, lenByte, trailer, addr, rfl⟩ | ⟨h, l, hsync, rfl⟩ := hu
      · exact ⟨by simp [ffcFrameBytes], 8, classifyQueue_ffcFrameBytes cfg cmd addr value ⟨lenByte, trailer⟩ _⟩
      · exact ⟨Nat.le_refl 2, 2, classifyQueue_sample cfg h l _ fun ⟨hh, hl, _⟩ => hsync ⟨hh, hl⟩⟩
    obtain ⟨hlen, n, hclassify⟩ := htaken
    have hround := ffcDecodePass_of_classifyQueue (List.length_append ▸ Nat.le_add_right_of_le hlen) hclassify
    rw [List.flatMap_cons, hround, ih htail]
    rfl

/-! ## The operations of unit FFC -/

/-- Settles O25: opening and closing. -/
theorem ffcOpenAndCloseEmptyTheQueue : Obligations.FfcOpenAndCloseEmptyTheQueue := by
  refine fun s => ⟨rfl, fun hopen => ?_, fun hclosed => ?_⟩
  · exact congrArg Host.Outcome.next (guarded_open .ffc ffcCloseBody s hopen)
  · exact next_guarded_closed .ffc true ffcCloseBody s rfl hclosed

theorem exec_ffcPush_fits {s : State} {bs : List Byte} (hopen : s.ffc.isOpen = true) (hne : bs ≠ [])
    (hmax : ∀ m, s.cfg.burstMax = some m → bs.length ≤ m)
    (hfits : ∀ d, s.cfg.qdepthFfc = some d → s.ffc.q.length + bs.length ≤ d) :
    exec (.ffcPush bs) s =
      .next (s.setFfc { s.ffc with q := s.ffc.q ++ bs, out := s.ffc.out ++ [.result okResult] }) := by
  rw [exec_ffcPush, execFfcPush, ffcPush_legal hopen hne hmax, ffcPushBody_fits hfits]

/-- Settles O26, in the order of the tests: the burst, the link, the depth. -/
theorem ffcPushAppendsAllOrNothing : Obligations.FfcPushAppendsAllOrNothing := by
  intro s bs
  refine ⟨fun hillegal => ?illegal, fun hne hmax => ⟨fun hclosed => ?closed, fun hopen hfull => ?full,
    fun hopen hfits => exec_ffcPush_fits hopen hne hmax hfits⟩⟩
  all_goals rw [exec_ffcPush, execFfcPush]
  case illegal =>
    rw [ffcPush, burstLegal_false s.cfg bs hillegal, guarded_illegal]
    rfl
  case closed =>
    exact next_guarded_closed .ffc _ _ s ((burstLegal_iff s.cfg bs).2 ⟨hne, hmax⟩) hclosed
  case full =>
    rw [ffcPush_legal hopen hne hmax, ffcPushBody_full hfull]
    rfl

theorem exec_ffcEncode_open {s : State} (hopen : s.ffc.isOpen = true) (cmd : Byte) (addr : Half) (value : Byte) :
    exec (.ffcEncode cmd addr value) s = .next (ffcEncodeBody cmd addr value s) :=
  congrArg Host.Outcome.next (guarded_open .ffc (ffcEncodeBody cmd addr value) s hopen)

/-- Settles O27, for an open and a closed link. -/
theorem ffcTransmitsCommandAndAuxiliaryFrames : Obligations.FfcTransmitsCommandAndAuxiliaryFrames := by
  refine fun s => ⟨fun hopen => ⟨fun cmd addr value => ?_, fun k => ?_⟩,
    fun hclosed => ⟨fun cmd addr value => ?_, fun k => ?_⟩⟩
  · exact exec_ffcEncode_open hopen cmd addr value
  · exact congrArg Host.Outcome.next (guarded_open .ffc (ffcAuxBody k) s hopen)
  · exact next_guarded_closed .ffc true (ffcEncodeBody cmd addr value) s rfl hclosed
  · exact next_guarded_closed .ffc true (ffcAuxBody k) s rfl hclosed

/-- A classify operation of an open unit delivers what the classifier does to its queue (R150, R152). -/
theorem exec_ffcClassify_of_classifyQueue {s : State} {n : Nat} {es : List Event} {left : List Byte}
    (hopen : s.ffc.isOpen = true) (h : classifyQueue s.cfg s.ffc.q = ⟨n, es, left⟩) :
    exec .ffcClassify s = .next (s.setFfc { s.ffc with
      q := left
      out := s.ffc.out ++ (es.map .event ++ [.result ⟨.ok, .consumed n⟩]) }) := by
  rw [exec_ffcClassify, execFfcClassify, guarded_open .ffc ffcClassifyBody s hopen, ffcClassifyBody, h]
  rfl

/-- Settles O29, by what stands at the head of the queue: a whole command frame, another pair, or less. -/
theorem ffcClassifyTakesOneUnit : Obligations.FfcClassifyTakesOneUnit := by
  refine fun s hopen => ⟨fun lenByte cmd ah al value trailer rest hq => ?frame, fun h l rest hq hsync => ?sample,
    fun hshort => ?short⟩
  case frame =>
    rw [← joinBytes_eq_or]
    exact exec_ffcClassify_of_classifyQueue hopen (hq ▸ classifyQueue_frame s.cfg lenByte cmd ah al value trailer rest)
  case sample => exact exec_ffcClassify_of_classifyQueue hopen (hq ▸ classifyQueue_sample s.cfg h l rest hsync)
  case short =>
    exact exec_ffcClassify_of_classifyQueue hopen (classifyQueue_short s.cfg s.ffc.q (Nat.lt_succ_of_le hshort))

/-- Settles O30: the pass round by round, and what the operation delivers of it. -/
theorem ffcDecodeRepeatsTheClassifyStep : Obligations.FfcDecodeRepeatsTheClassifyStep := by
  refine ⟨fun cfg q => ⟨ffcDecodePass_short cfg q, ffcDecodePass_round cfg q⟩,
    fun s => ⟨fun hopen => ?_, fun hclosed => ?_⟩⟩
  · exact congrArg Host.Outcome.next (guarded_open .ffc ffcDecodeBody s hopen)
  · exact next_guarded_closed .ffc true ffcDecodeBody s rfl hclosed

/-- Settles O32: the eight bytes transmitted fit the empty queue of a legal depth, and are classified as the frame. -/
theorem ffcEncodeThenClassifyRoundTrip : Obligations.FfcEncodeThenClassifyRoundTrip := by
  intro s cmd value addr hok hopen hempty hburst
  have hfits : ∀ d, s.cfg.qdepthFfc = some d →
      s.ffc.q.length + (ffcFrameBytes cmd addr value (sentFixedBytes s.cfg)).length ≤ d := by
    intro d hd
    obtain ⟨-, -, -, -, hdepth, -⟩ := hok
    rw [hempty]
    exact hdepth d hd
  obtain ⟨u, hpush, huopen, huq⟩ : ∃ u,
      exec (.ffcPush (ffcFrameBytes cmd addr value (sentFixedBytes s.cfg))) (ffcEncodeBody cmd addr value s) =
        .next u ∧
      u.ffc.isOpen = true ∧ u.ffc.q = s.ffc.q ++ ffcFrameBytes cmd addr value (sentFixedBytes s.cfg) :=
    ⟨_, exec_ffcPush_fits (s := ffcEncodeBody cmd addr value s) hopen (List.cons_ne_nil _ _) hburst hfits, hopen,
      rfl⟩
  have hclassify : classifyQueue u.cfg u.ffc.q = ⟨8, [.cmdFrame cmd addr value ffcLen8 s.cfg.ffcTrailer], []⟩ := by
    have hframe := classifyQueue_ffcFrameBytes u.cfg cmd addr value (sentFixedBytes s.cfg) []
    rw [huq, hempty, List.nil_append]
    rwa [List.append_nil] at hframe
  exact ⟨_, u, _, ffcFrameBytes cmd addr value (sentFixedBytes s.cfg), exec_ffcEncode_open hopen cmd addr value, rfl,
    hpush, exec_ffcClassify_of_classifyQueue huopen hclassify, rfl, rfl⟩

end Sys2Proof.Machine
end

section
/-! Proofs for spec/42_mbc_crc16.md: the CRC and its operations (R181 to R185, R196), the operations that begin and end
a transaction (R186 to R188, R193), and the length, collection and verdict of a response (R190 to R192, R198). -/

namespace Sys2Proof.Machine

/-! ## The CRC -/

/-- While the low bits are clear a round only shifts: the polynomial never enters (R182). -/
theorem crcShifts_of_low_clear (n : Nat) (x : Half) (h : ∀ i, i < n → x.getLsbD i = false) :
    crcShifts n x = x >>> n := by
  induction n generalizing x with
  | zero => rfl
  | succ n ih =>
    have hshift : crcShift x = x >>> 1 := by rw [crcShift, h 0 (Nat.succ_pos n), if_neg Bool.false_ne_true]
    have hlow : ∀ i, i < n → (x >>> 1).getLsbD i = false := fun i hi => by
      rw [BitVec.getLsbD_ushiftRight]
      exact h (1 + i) (by omega)
    rw [crcShifts, hshift, ih _ hlow, ← BitVec.shiftRight_add, Nat.add_comm]

/-- A byte equal to the low half of the accumulator cancels it, and the high half moves down. -/
theorem crcStep_loByte (c : Half) : crcStep c (loByte c) = (hiByte c).setWidth 16 := by
  have hlow : ∀ i, i < 8 → (c ^^^ (loByte c).setWidth 16).getLsbD i = false := by
    intro i hi
    simp [loByte, hi, Nat.lt_trans hi (by decide : 8 < 16)]
  rw [crcStep, crcShifts_of_low_clear 8 _ hlow]
  ext i hi
  have hbit : c.getLsbD (8 + i) = true → i < 8 := fun h => by
    have := BitVec.lt_of_getLsbD h
    omega
  simpa [loByte, hiByte] using hbit

/-- An accumulator equal to the byte is cancelled by it. -/
theorem crcStep_self (b : Byte) : crcStep (b.setWidth 16) b = 0 := by
  rw [crcStep, BitVec.xor_self]
  rfl

/-- Settles O36: the low byte of the CRC leaves its high byte, and the high byte cancels that. -/
theorem crcOfABodyWithItsCrcIsZero : Obligations.CrcOfABodyWithItsCrcIsZero := by
  intro body
  calc crc16 (withCrc body)
    _ = crcStep (crcStep (crc16 body) (loByte (crc16 body))) (hiByte (crc16 body)) := crc16_append body _
    _ = crcStep ((hiByte (crc16 body)).setWidth 16) (hiByte (crc16 body)) := by rw [crcStep_loByte]
    _ = 0 := crcStep_self _

/-! ## The CRC operations -/

/-- The accumulator after `MBC.CRCBYTE` of each byte (R184). -/
theorem afterAll_mbcCrcbyte_crc (bs : List Byte) (s : State) :
    (afterAll (bs.map .mbcCrcbyte) s).mbc.crc = bs.foldl crcStep s.mbc.crc := by
  induction bs generalizing s with
  | nil => rfl
  | cons b bs ih => exact ih (after (.mbcCrcbyte b) s)

theorem afterAll_crc16Sequence (bs : List Byte) (s : State) :
    afterAll (crc16Sequence bs) s = after .mbcCrcrd (afterAll (bs.map .mbcCrcbyte) (after .mbcCrcrst s)) := by
  simp [afterAll, crc16Sequence]

theorem lastResult_append_result (out : List Delivery) (r : Result) : lastResult (out ++ [.result r]) = some r := by
  simp [lastResult]

/-- Settles O35: each operation in one equation, and the bytes of a sequence by induction. -/
theorem crcOperationsComputeTheCrc : Obligations.CrcOperationsComputeTheCrc := by
  refine ⟨fun acc b => crcShifts_iterate 8 _, rfl, fun bs b => crc16_append bs [b],
    fun s => ⟨rfl, fun b => rfl, rfl, fun bs => ?sequence⟩⟩
  case sequence =>
    have hcrc : (afterAll (bs.map .mbcCrcbyte) (after .mbcCrcrst s)).mbc.crc = crc16 bs :=
      afterAll_mbcCrcbyte_crc bs (after .mbcCrcrst s)
    rw [afterAll_crc16Sequence]
    exact ⟨hcrc, hcrc ▸ lastResult_append_result _ _⟩

/-! ## Beginning and ending a transaction -/

/-- Settles O34: opening and closing. -/
theorem mbcOpenAndCloseAbandonTheTransaction : Obligations.MbcOpenAndCloseAbandonTheTransaction := by
  refine fun s => ⟨rfl, fun hopen => ?_, fun hclosed => ?_⟩
  · exact congrArg Host.Outcome.next (guarded_open .mbc mbcCloseBody s hopen)
  · exact next_guarded_closed .mbc true mbcCloseBody s rfl hclosed

theorem mbcTimeoutBody_idle (s : State) (h : s.mbc.busy = false) : mbcTimeoutBody s = raise .mbc .mbIdle s := by
  rw [mbcTimeoutBody, h, if_neg Bool.false_ne_true]

theorem mbcTimeoutBody_busy (s : State) (h : s.mbc.busy = true) :
    mbcTimeoutBody s = s.setMbc { s.mbc with
      busy := false, r := []
      out := s.mbc.out ++ [.result ⟨.modbusTimeout, .received s.mbc.r.length⟩] } := by
  rw [mbcTimeoutBody, if_pos h]
  rfl

/-- Settles O38: a closed unit, an idle one, and one with a transaction in progress. -/
theorem mbcTimeoutEndsTheTransaction : Obligations.MbcTimeoutEndsTheTransaction := by
  refine fun s => ⟨fun hclosed => ?_, fun hopen hidle => ?_, fun hopen hbusy => ?_⟩
  · exact next_guarded_closed .mbc true mbcTimeoutBody s rfl hclosed
  · exact congrArg Host.Outcome.next ((guarded_open .mbc mbcTimeoutBody s hopen).trans (mbcTimeoutBody_idle s hidle))
  · exact congrArg Host.Outcome.next ((guarded_open .mbc mbcTimeoutBody s hopen).trans (mbcTimeoutBody_busy s hbusy))

/-- A request of one of the three kinds on an open unit (R186). -/
theorem exec_mbcReq_open {s : State} (hopen : s.mbc.isOpen = true) (slave : Byte) (kind : ReqKind) (addr data : Half) :
    exec (.mbcReq slave (kindCode kind) addr data) s = .next (mbcReqBody slave kind addr data s) := by
  rw [exec_mbcReq, execMbcReq, mbcReq, kindOfCode_kindCode]
  exact congrArg Host.Outcome.next (guarded_open .mbc (mbcReqBody slave kind addr data) s hopen)

/-- Settles O37: the code `11` names no kind, and each of the others one with its function. -/
theorem mbcReqTransmitsAndBeginsATransaction : Obligations.MbcReqTransmitsAndBeginsATransaction := by
  intro s slave addr data
  refine ⟨rfl, fun kind func hkind => ?_⟩
  obtain ⟨k, rfl, rfl⟩ : ∃ k, kind = kindCode k ∧ func = funcOfKind s.cfg k := by
    obtain ⟨rfl, rfl⟩ | ⟨rfl, rfl⟩ | ⟨rfl, rfl⟩ := hkind
    · exact ⟨.readHolding, rfl, rfl⟩
    · exact ⟨.writeReg, rfl, rfl⟩
    · exact ⟨.writeCoil, rfl, rfl⟩
  refine ⟨fun hclosed => ?_, fun hopen => ⟨_, rfl, exec_mbcReq_open hopen slave k addr data⟩⟩
  exact congrArg Host.Outcome.next (mbcReq_closed slave (kindCode k) addr data s (kindLegal_kindCode k) hclosed)

/-! ## The length of a response -/

/-- Bit 7 of a function byte marks an exception (30_encoding R88). -/
theorem getLsbD_seven_iff (b : Byte) : b.getLsbD 7 = true ↔ 128 ≤ b.toNat := by
  rw [← BitVec.msb_eq_getLsbD_last b, BitVec.msb_eq_decide, decide_eq_true_iff]

/-- The three rows of R190. -/
theorem mbRequired_header (cfg : Config) (expFunc b0 b1 b2 : Byte) (more : List Byte) :
    mbRequired cfg expFunc (b0 :: b1 :: b2 :: more) =
      if 128 ≤ b1.toNat then 5 else if expFunc = cfg.mbFcReadHolding then 5 + b2.toNat else 8 :=
  ite_congr (propext (getLsbD_seven_iff b1)) (fun _ => rfl) fun _ => rfl

/-- Settles O40, row by row. -/
theorem mbcResponseLengthIsFixedByTheHeader : Obligations.MbcResponseLengthIsFixedByTheHeader := by
  intro cfg expFunc b0 b1 b2 more
  obtain ⟨hmin, hmax⟩ := mbRequired_bounds cfg expFunc (b0 :: b1 :: b2 :: more)
  refine ⟨_, rfl, hmin, hmax, fun hexc => ?_, fun hplain hread => ?_, fun hplain hwrite => ?_⟩
  all_goals rw [mbRequired_header]
  · rw [if_pos hexc]
  · rw [if_neg (Nat.not_le_of_lt hplain), if_pos hread]
  · rw [if_neg (Nat.not_le_of_lt hplain), if_neg hwrite]

/-! ## Collecting a response -/

/-- Settles O39: a closed unit, an idle one, and one whose response the byte completes or not. -/
theorem mbcRxCollectsToTheRequiredLength : Obligations.MbcRxCollectsToTheRequiredLength := by
  refine fun s b => ⟨fun hclosed => ?closed, fun hopen hidle => ?idle, fun hopen hbusy r hr => ?_⟩
  case closed => exact next_guarded_closed .mbc true (mbcRxBody b) s rfl hclosed
  case idle => exact congrArg Host.Outcome.next ((mbcRx_open b s hopen).trans (mbcRxBody_idle b s hidle))
  subst hr
  refine ⟨fun hlen => ?complete, fun hlen => ?incomplete⟩
  case complete =>
    have hbody := mbcRxBody_last b s hbusy ((mbComplete_iff _ _ _).2 hlen)
    exact ⟨_, verdictStatus _, rfl, congrArg Host.Outcome.next ((mbcRx_open b s hopen).trans hbody),
      fun _ _ h => congrArg verdictStatus h, fun _ h => congrArg verdictStatus h,
      fun _ _ h => congrArg verdictStatus h, fun _ h => congrArg verdictStatus h,
      fun _ _ _ _ h => congrArg verdictStatus h, fun _ _ _ _ h => congrArg verdictStatus h⟩
  case incomplete =>
    have hbody := mbcRxBody_more b s hbusy (Bool.eq_false_iff.2 fun hc => hlen ((mbComplete_iff _ _ _).1 hc))
    exact congrArg Host.Outcome.next ((mbcRx_open b s hopen).trans hbody)

/-! ## The verdict -/

/-- Settles O41: test by test, and in a plain response the required length says how many bytes its fields have. -/
theorem mbcVerdictTestsInOrder : Obligations.MbcVerdictTestsInOrder := by
  rintro cfg expSlave expFunc slave func third lo hi more _ rfl hrequired
  have hlen : more.length + 5 =
      if 128 ≤ func.toNat then 5 else if expFunc = cfg.mbFcReadHolding then 5 + third.toNat else 8 := by
    rw [← mbRequired_header cfg expFunc slave func third (more ++ [lo, hi])]
    simpa using hrequired.symm
  rw [mbCheck_body cfg expSlave expFunc slave func third lo hi more (by simpa using hrequired.symm), joinBytes_eq_or]
  refine ite_congr rfl (fun _ => rfl) fun _ => ite_congr rfl (fun _ => rfl) fun _ =>
    ite_congr (propext (getLsbD_seven_iff func)) (fun _ => rfl) fun hplain => ite_congr rfl (fun _ => rfl) fun _ =>
    ite_congr rfl (fun hread => ?read) fun hwrite => ?write
  all_goals rw [if_neg hplain] at hlen
  case read =>
    rw [if_pos hread] at hlen
    have hcount : third.toNat = more.length := by omega
    rw [hcount]
    simp [memRead]
  case write =>
    rw [if_neg hwrite] at hlen
    obtain ⟨a, d1, d2, rfl⟩ := List.length_eq_three.1 (Nat.add_right_cancel hlen : more.length = 3)
    rw [joinBytes_eq_or, joinBytes_eq_or]
    rfl

/-! ## The echo of a write request -/

theorem plainFunc_funcLow (b : Byte) (h : b.getLsbD 7 = false) : plainFunc (funcLow b) = b := by
  revert b
  decide

/-- A write request carries a function that is plain and not the read function (00_scope R6). -/
theorem funcOfKind_write {cfg : Config} (hok : cfg.Ok) {kind : ReqKind} (hkind : kind ≠ .readHolding) :
    (funcOfKind cfg kind).getLsbD 7 = false ∧ funcOfKind cfg kind ≠ cfg.mbFcReadHolding := by
  obtain ⟨-, ⟨hreg, hcoil, -⟩, ⟨-, hregPlain, hcoilPlain⟩, -⟩ := hok
  cases kind with
  | readHolding => exact absurd rfl hkind
  | writeReg => exact ⟨hregPlain, hreg.symm⟩
  | writeCoil => exact ⟨hcoilPlain, hcoil.symm⟩

/-- The bytes of a write request, received by the transaction it began, are its write response (R198). -/
theorem mbcRxAll_mbcRequestBytes {s : State} (hopen : s.mbc.isOpen = true) (hbusy : s.mbc.busy = true)
    (hempty : s.mbc.r = []) (addr data : Half) (hplain : s.mbc.expFunc.getLsbD 7 = false)
    (hwrite : s.mbc.expFunc ≠ s.cfg.mbFcReadHolding) :
    mbcRxAll (mbcRequestBytes s.mbc.expSlave s.mbc.expFunc addr data) s = s.setMbc { s.mbc with
      busy := false
      out := s.mbc.out ++ (List.replicate 7 (.result ⟨.ok, .incomplete⟩) ++
        [.result ⟨.ok, .complete (.writeOk s.mbc.expSlave s.mbc.expFunc addr data)⟩]) } := by
  have hfunc := plainFunc_funcLow s.mbc.expFunc hplain
  have hecho : mbcRequestBytes s.mbc.expSlave s.mbc.expFunc addr data =
      mbcWriteBytes s.mbc.expSlave (funcLow s.mbc.expFunc) addr data := by rw [mbcWriteBytes, hfunc]; rfl
  rw [hecho]
  exact mbcRxAll_withCrc hopen hbusy hempty [loByte addr, hiByte data, loByte data]
    (mbRespLen_plain_write (funcLow s.mbc.expFunc) _ hwrite).symm
    (mbCheck_writeBytes s.mbc.expSlave _ addr data hwrite hfunc.symm)

/-- Settles O42: the request's own bytes are the write response its transaction waits for. -/
theorem mbcWriteRequestEchoIsAccepted : Obligations.MbcWriteRequestEchoIsAccepted := by
  intro s slave code addr data hok hopen hcode
  obtain ⟨kind, rfl, hkind⟩ : ∃ kind, code = kindCode kind ∧ kind ≠ .readHolding := by
    obtain rfl | rfl := hcode
    · exact ⟨.writeReg, rfl, nofun⟩
    · exact ⟨.writeCoil, rfl, nofun⟩
  obtain ⟨hplain, hwrite⟩ := funcOfKind_write hok hkind
  refine ⟨mbcReqBody slave kind addr data s, mbcRequestBytes slave (funcOfKind s.cfg kind) addr data,
    exec_mbcReq_open hopen slave kind addr data, rfl, rfl, ?_⟩
  rw [afterAll_mbcRx]
  exact congrArg State.mbc
    (mbcRxAll_mbcRequestBytes (s := mbcReqBody slave kind addr data s) hopen rfl rfl addr data hplain hwrite)

end Sys2Proof.Machine
end

section
/-! Proofs for spec/43_host_sequences.md: when `CSF.SEND_WITH_ACK` finds its acknowledgement (R222, R223, R234), and how
it ends on a quiet link (R305). -/

namespace Sys2Proof.Machine

/-! ## Running operations -/

theorem after_of_exec {i : Instr} {s t : State} (h : exec i s = .next t) : after i s = t := by rw [after, h]

@[simp] theorem afterAll_nil (s : State) : afterAll [] s = s := rfl

@[simp] theorem afterAll_cons (i : Instr) (is : List Instr) (s : State) :
    afterAll (i :: is) s = afterAll is (after i s) := rfl

theorem afterAll_append (is js : List Instr) (s : State) : afterAll (is ++ js) s = afterAll js (afterAll is s) :=
  List.foldl_append

/-! ## One poll -/

/-- A filtered decode in state `s` decodes a frame with the command sent: the unit is open and the pass yields one. -/
def DecodesCommand (cmd : Byte) (s : State) : Prop :=
  s.csf.isOpen = true ∧ ∃ f ∈ (csfDecodePass s.csf.q).2, f.command = cmd

/-- The filter flag over the commands of some frames (40_csf_framer R130). -/
theorem matchedFlag_filtered_iff (cmd : Byte) (fs : List Frame) :
    matchedFlag true cmd (fs.map Frame.command) = true ↔ ∃ f ∈ fs, f.command = cmd := by simp [matchedFlag]

/-- The host reads `matched = 1` from a poll exactly when the poll decoded the command; a poll of a closed unit answers
`LinkUnavailable`. -/
theorem saysMatched_poll_iff (cmd : Byte) (s : State) :
    saysMatched (lastResult (after (.csfDecode true cmd) s).csf.out) = true ↔ DecodesCommand cmd s := by
  cases hopen : s.csf.isOpen with
  | false =>
    have hclosed : after (.csfDecode true cmd) s = raise .csf .linkUnavailable s :=
      guarded_closed .csf (csfDecodeBody true cmd) s hopen
    simp [hclosed, raise_withOut, lastResult_append_result, saysMatched, DecodesCommand, hopen]
  | true =>
    have hpolled := after_of_exec (exec_csfDecode_pass hopen (Prod.eta (csfDecodePass s.csf.q)).symm true cmd)
    rw [hpolled, setCsf_csf, ← List.append_assoc, lastResult_append_result, DecodesCommand,
      ← matchedFlag_filtered_iff]
    exact (and_iff_right hopen).symm

/-! ## All the polls -/

theorem pollForAck_cons_decodes {cmd : Byte} {o : List Instr} {s : State} (rest : List (List Instr))
    (h : DecodesCommand cmd (afterAll o s)) : (pollForAck cmd (o :: rest) s).1 = .ok := by
  rw [pollForAck, if_pos ((saysMatched_poll_iff cmd _).2 h)]

theorem pollForAck_cons_misses {cmd : Byte} {o : List Instr} {s : State} (rest : List (List Instr))
    (h : ¬ DecodesCommand cmd (afterAll o s)) :
    pollForAck cmd (o :: rest) s = pollForAck cmd rest (after (.csfDecode true cmd) (afterAll o s)) := by
  rw [pollForAck, if_neg (mt (saysMatched_poll_iff cmd _).1 h)]

/-- The state in which poll `k` runs, when every poll before it ran too. -/
def stateAtPoll (cmd : Byte) (others : List (List Instr)) (k : Nat) (s : State) : State :=
  afterAll ((others.take k).flatMap (fun o => o ++ [.csfDecode true cmd]) ++ others.getD k []) s

theorem stateAtPoll_zero (cmd : Byte) (o : List Instr) (rest : List (List Instr)) (s : State) :
    stateAtPoll cmd (o :: rest) 0 s = afterAll o s := rfl

theorem stateAtPoll_succ (cmd : Byte) (o : List Instr) (rest : List (List Instr)) (k : Nat) (s : State) :
    stateAtPoll cmd (o :: rest) (k + 1) s = stateAtPoll cmd rest k (after (.csfDecode true cmd) (afterAll o s)) := by
  simp [stateAtPoll, afterAll_append]

/-- The polling succeeds exactly when some poll decodes the command. -/
theorem pollForAck_ok_iff (cmd : Byte) (others : List (List Instr)) (s : State) :
    (pollForAck cmd others s).1 = .ok ↔ ∃ k < others.length, DecodesCommand cmd (stateAtPoll cmd others k s) := by
  induction others generalizing s with
  | nil => simp [pollForAck]
  | cons o rest ih =>
    by_cases hfirst : DecodesCommand cmd (afterAll o s)
    · exact iff_of_true (pollForAck_cons_decodes rest hfirst) ⟨0, Nat.succ_pos _, hfirst⟩
    · rw [pollForAck_cons_misses rest hfirst, ih]
      constructor
      · rintro ⟨k, hk, hdecodes⟩
        exact ⟨k + 1, Nat.succ_lt_succ hk, (stateAtPoll_succ cmd o rest k s).symm ▸ hdecodes⟩
      · rintro ⟨_ | k, hk, hdecodes⟩
        · exact absurd hdecodes hfirst
        · exact ⟨k, Nat.lt_of_succ_lt_succ hk, stateAtPoll_succ cmd o rest k s ▸ hdecodes⟩

theorem pollForAck_ok_or_ackTimeout (cmd : Byte) (others : List (List Instr)) (s : State) :
    (pollForAck cmd others s).1 = .ok ∨ (pollForAck cmd others s).1 = .ackTimeout := by
  induction others generalizing s with
  | nil => exact .inr rfl
  | cons o rest ih =>
    by_cases hfirst : DecodesCommand cmd (afterAll o s)
    · exact .inl (pollForAck_cons_decodes rest hfirst)
    · rw [pollForAck_cons_misses rest hfirst]
      exact ih _

/-- Settles O59, from the polls that follow the send. -/
theorem sendWithAckSucceedsExactlyWhenAPollDecodesTheCommand :
    Obligations.SendWithAckSucceedsExactlyWhenAPollDecodesTheCommand := fun _ cmd _ _ others =>
  ⟨pollForAck_ok_iff cmd others _, pollForAck_ok_or_ackTimeout cmd others _⟩

/-! ## A quiet link -/

/-- Unit CSF is open under configuration `cfg` and holds the bytes `q`. -/
structure OpenWith (cfg : Config) (q : List Byte) (s : State) : Prop where
  cfg_eq : s.cfg = cfg
  isOpen : s.csf.isOpen = true
  queue : s.csf.q = q

section
variable {cfg : Config} {cmd : Byte} {q : List Byte} {s : State}

theorem OpenWith.decodesCommand_iff (h : OpenWith cfg q s) :
    DecodesCommand cmd s ↔ ∃ f ∈ (csfDecodePass q).2, f.command = cmd := by
  rw [DecodesCommand, h.queue]
  exact and_iff_right h.isOpen

/-- The clear and the send leave the queue empty (R222 steps 1 and 2). -/
theorem openWith_sent {payload : List Byte} (hopen : s.csf.isOpen = true) (hp : payload.length ≤ 255) :
    OpenWith s.cfg [] (after (.csfEncode cmd payload) (after .csfClear s)) := by
  have hclear : after .csfClear s = csfClearBody s := guarded_open .csf csfClearBody s hopen
  have hsend : after (.csfEncode cmd payload) (csfClearBody s) = csfEncodeBody cmd payload (csfClearBody s) :=
    csfEncode_open (s := csfClearBody s) cmd hp hopen
  rw [hclear, hsend]
  exact ⟨rfl, hopen, rfl⟩

/-- A decode leaves what the pass over the queue leaves. -/
theorem OpenWith.decode {left : List Byte} {fs : List Frame} (h : OpenWith cfg q s)
    (hpass : csfDecodePass q = (left, fs)) (fe : Bool) (fc : Byte) :
    OpenWith cfg left (after (.csfDecode fe fc) s) := by
  rw [← h.queue] at hpass
  rw [after_of_exec (exec_csfDecode_pass h.isOpen hpass fe fc)]
  exact ⟨h.cfg_eq, h.isOpen, rfl⟩

/-- A frame within the burst limit fits an empty queue of a legal depth. -/
theorem OpenWith.pushFrame {ack : List Byte} (h : OpenWith cfg [] s) (hok : cfg.Ok) (hack : ack.length ≤ 255)
    (hburst : ∀ m, cfg.burstMax = some m → ack.length + 5 ≤ m) :
    OpenWith cfg (csfFrameBytes cmd ack) (after (.csfPush (csfFrameBytes cmd ack)) s) := by
  obtain ⟨rfl, hopen, hempty⟩ := h
  have hlen := csfFrameBytes_length cmd ack
  have hfits : ∀ d, s.cfg.qdepthCsf = some d → s.csf.q.length + (csfFrameBytes cmd ack).length ≤ d := by
    intro d hd
    obtain ⟨-, -, -, hdepth, -⟩ := hok
    have := hdepth d hd
    rw [hempty, hlen, List.length_nil]
    omega
  rw [after_of_exec (exec_csfPush_fits hopen (List.ne_nil_of_length_eq_add_one hlen) (fun m hm => hlen ▸ hburst m hm)
    hfits), hempty]
  exact ⟨rfl, hopen, rfl⟩

/-- A poll of an empty queue finds nothing and leaves it empty. -/
theorem pollForAck_of_empty {o : List Instr} (h : OpenWith cfg [] (afterAll o s)) :
    ∃ t, OpenWith cfg [] t ∧ ∀ rest, pollForAck cmd (o :: rest) s = pollForAck cmd rest t := by
  have hmisses : ¬ DecodesCommand cmd (afterAll o s) := h.decodesCommand_iff.not.2 nofun
  exact ⟨_, h.decode rfl true cmd, fun rest => pollForAck_cons_misses rest hmisses⟩

/-- So does any number of polls with nothing in between. -/
theorem pollForAck_replicate (n : Nat) (h : OpenWith cfg [] s) :
    ∃ t, OpenWith cfg [] t ∧ ∀ rest, pollForAck cmd (List.replicate n [] ++ rest) s = pollForAck cmd rest t := by
  induction n generalizing s with
  | zero => exact ⟨s, h, fun _ => rfl⟩
  | succ n ih =>
    obtain ⟨t, ht, hfirst⟩ := pollForAck_of_empty (cmd := cmd) (o := []) h
    obtain ⟨u, hu, hrest⟩ := ih ht
    exact ⟨u, hu, fun rest => (hfirst _).trans (hrest rest)⟩

theorem pollForAck_replicate_ackTimeout (n : Nat) (h : OpenWith cfg [] s) :
    (pollForAck cmd (List.replicate n []) s).1 = .ackTimeout := by
  obtain ⟨t, -, hpolls⟩ := pollForAck_replicate (cmd := cmd) n h
  rw [← List.append_nil (List.replicate n []), hpolls]
  rfl

end

/-- Settles O58: the empty polls leave the queue empty; the acknowledgement is then alone in it, for the next poll or
for the link reader's own pass, which empties it again. -/
theorem sendWithAckDependsOnWhichPassDecodes : Obligations.SendWithAckDependsOnWhichPassDecodes := by
  intro s cmd payload ack n k hok hopen hp hack hburst
  have hsent := openWith_sent (cmd := cmd) hopen hp
  obtain ⟨t, ht, hpolls⟩ := pollForAck_replicate (cmd := cmd) n hsent
  have hpushed := ht.pushFrame (cmd := cmd) hok hack hburst
  have hpass := csfDecodePass_single cmd hack
  refine ⟨?acknowledged, ?taken, pollForAck_replicate_ackTimeout n hsent⟩
  case acknowledged =>
    have hdecodes := hpushed.decodesCommand_iff.2 ⟨⟨cmd, ack⟩, hpass ▸ List.mem_singleton_self _, rfl⟩
    exact (congrArg Prod.fst (hpolls _)).trans (pollForAck_cons_decodes [] hdecodes)
  case taken =>
    obtain ⟨u, hu, htaken⟩ := pollForAck_of_empty (cmd := cmd) (s := t)
      (o := [.csfPush (csfFrameBytes cmd ack), .csfDecode false 0]) (hpushed.decode hpass false 0)
    calc (pollForAck cmd (List.replicate n [] ++ _) _).1
      _ = (pollForAck cmd (List.replicate k []) u).1 := congrArg Prod.fst ((hpolls _).trans (htaken _))
      _ = .ackTimeout := pollForAck_replicate_ackTimeout k hu

end Sys2Proof.Machine
end

section
/-! Proofs for spec/60_exceptions.md: which request a step accepts (R270), that every instruction and every step of a
legal configuration goes on (R259), and that every waiting item is executed and answered (R270). -/

namespace Sys2Proof.Machine

/-! ## The agents and their requests -/

theorem mem_allAgents (a : Agent) : a ∈ allAgents := by cases a <;> decide

theorem mem_waitingAgents_iff (p : Pending) (a : Agent) : a ∈ waitingAgents p ↔ waitingAt p a ≠ [] := by
  simp [waitingAgents, mem_allAgents]

theorem waitingCount_eq_zero_iff (p : Pending) : waitingCount p = 0 ↔ ∀ a, waitingAt p a = [] := by
  simp [waitingCount, List.sum_eq_zero_iff, mem_allAgents]

theorem waitingResults_of_none_waiting {p : Pending} (h : ∀ a, waitingAt p a = []) : waitingResults p = 0 := by
  simp [waitingResults, h]

/-- When requests wait, the free choice of R270 names one of the agents that have one. -/
theorem chooseAgent_mem (tick : Nat) {agents : List Agent} (h : agents ≠ []) :
    ∃ a ∈ agents, chooseAgent tick agents = some a := by
  match agents, h with
  | [a], _ => exact ⟨a, List.mem_singleton_self a, rfl⟩
  | a :: b :: rest, _ =>
    have hlt : Config.arbiterChoice tick % (rest.length + 2) < (a :: b :: rest).length :=
      Nat.mod_lt _ (Nat.succ_pos _)
    refine ⟨_, ?_, rfl⟩
    rw [List.getD_eq_getElem _ _ hlt]
    exact List.getElem_mem hlt

theorem waitingAt_takeFrom (p : Pending) (a b : Agent) :
    waitingAt (takeFrom p a) b = if b = a then (waitingAt p b).tail else waitingAt p b := by
  cases a <;> cases b <;> rfl

/-- Accepting takes the oldest request of one agent. -/
theorem acceptNext_of_waiting {s : State} (h : 0 < waitingCount s.host.pending) :
    ∃ a item rest, waitingAt s.host.pending a = item :: rest ∧
      acceptNext s = s.setHost { s.host with
        accepted := some item, pending := takeFrom s.host.pending a, tick := s.host.tick + 1 } := by
  have hsome : waitingAgents s.host.pending ≠ [] := by
    intro hnone
    have hempty : waitingCount s.host.pending = 0 := (waitingCount_eq_zero_iff _).2 fun a =>
      not_not.1 ((mem_waitingAgents_iff _ a).not.1 (hnone ▸ List.not_mem_nil))
    omega
  obtain ⟨a, ha, hchoice⟩ := chooseAgent_mem s.host.tick hsome
  obtain ⟨item, rest, hwaiting⟩ := List.exists_cons_of_ne_nil ((mem_waitingAgents_iff _ a).1 ha)
  refine ⟨a, item, rest, hwaiting, ?_⟩
  simp only [acceptNext, hchoice, hwaiting, List.head?_cons]

/-- Settles O4: the free choice names an agent with a request, and only that agent's oldest request moves. -/
theorem stepAcceptsTheOldestRequestOfAnAgent : Obligations.StepAcceptsTheOldestRequestOfAnAgent := by
  intro s hok hpin haccepted hwaits
  obtain ⟨a, item, rest, hwaiting, haccept⟩ := acceptNext_of_waiting hwaits
  have hstep : step s = .next (acceptNext s) := step_accepts s hok hpin haccepted
  rw [haccept] at hstep
  have htaken : waitingAt (takeFrom s.host.pending a) a = rest := by
    rw [waitingAt_takeFrom, if_pos rfl, hwaiting, List.tail_cons]
  have hothers : ∀ b, b ≠ a → waitingAt (takeFrom s.host.pending a) b = waitingAt s.host.pending b :=
    fun b hb => (waitingAt_takeFrom _ a b).trans (if_neg hb)
  exact ⟨a, item, rest, _, hwaiting, hstep, rfl, htaken, hothers, rfl, rfl, rfl, rfl, rfl, hpin⟩

/-! ## What an instruction leaves alone -/

/-- From `s` to `t` the parameters stay as they are, and so does the host side but for the results of the reserved unit
(20_memory R71, log entry 5). -/
structure KeepsHost (s t : State) : Prop where
  cfg : t.cfg = s.cfg
  host : t.host = { s.host with out := t.host.out }

section
variable {s t : State} (h : KeepsHost s t)
include h

theorem KeepsHost.pending : t.host.pending = s.host.pending := by rw [h.host]
theorem KeepsHost.accepted : t.host.accepted = s.host.accepted := by rw [h.host]
theorem KeepsHost.resetPin : t.host.resetPin = s.host.resetPin := by rw [h.host]

end

theorem keepsHost_withUnitOf {u : UnitId} (hu : u ≠ .reserved) (t s : State) : KeepsHost s (withUnitOf u t s) := by
  cases u with
  | csf | ffc | mbc => exact ⟨rfl, rfl⟩
  | reserved => exact absurd rfl hu

/-- The reserved unit has no instruction but its reserved codes (30_encoding R93). -/
theorem reservedUnit11_of_instrUnit {i : Instr} (h : instrUnit i = .reserved) : ∃ op, i = .reservedUnit11 op := by
  cases i with
  | reservedUnit11 op => exact ⟨op, rfl⟩
  | _ => cases h

theorem exec_keepsHost (i : Instr) (s : State) : ∃ t, exec i s = .next t ∧ KeepsHost s t := by
  by_cases hu : instrUnit i = .reserved
  · obtain ⟨op, rfl⟩ := reservedUnit11_of_instrUnit hu
    exact ⟨raise .reserved .illegalOp s, rfl, rfl, rfl⟩
  · obtain ⟨f, hf, hexec⟩ := exec_actsOnUnit i
    refine ⟨f s, hexec s, ?_⟩
    rw [hf s]
    exact keepsHost_withUnitOf hu _ s

/-! ## How many results an item is answered with -/

/-- From `s` to `t` the block delivers exactly `n` results, and keeps the parameters and the waiting requests. -/
structure AnswersWith (n : Nat) (s t : State) : Prop extends KeepsHost s t where
  results : resultCount t = resultCount s + n

theorem AnswersWith.refl (s : State) : AnswersWith 0 s s := ⟨⟨rfl, rfl⟩, rfl⟩

theorem AnswersWith.trans {m n : Nat} {s t u : State} (h : AnswersWith m s t) (h' : AnswersWith n t u) :
    AnswersWith (m + n) s u where
  cfg := h'.cfg.trans h.cfg
  host := by rw [h'.host, h.host]
  results := by rw [h'.results, h.results, Nat.add_assoc]

/-- The events and the result of one operation hold one result. -/
theorem countP_isResult_delivered (es : List Event) (r : Result) :
    (es.map Delivery.event ++ [Delivery.result r]).countP isResult = 1 := by
  have hevents : (es.map Delivery.event).countP isResult = 0 := by simp [List.countP_eq_zero, isResult]
  rw [List.countP_append, hevents]
  rfl

/-- An instruction leaves the streams of the other units as they are (10_state R20). -/
theorem exec_outOf_other {i : Instr} {s t : State} (h : exec i s = .next t) {u : UnitId} (hu : u ≠ instrUnit i) :
    outOf u t = outOf u s := by
  obtain ⟨hcsf, hffc, hmbc, hhost, -⟩ := unitsAreIndependent i s s t t h h rfl
  cases u with
  | csf => exact congrArg Csf.out (hcsf hu.symm)
  | ffc => exact congrArg Ffc.out (hffc hu.symm)
  | mbc => exact congrArg Mbc.out (hmbc hu.symm)
  | reserved => exact congrArg HostSide.out (hhost hu.symm)

/-- One operation's deliveries on one unit's stream are one more result of the block. -/
theorem resultCount_of_delivered {u : UnitId} {s t : State} {es : List Event} {r : Result}
    (hout : outOf u t = outOf u s ++ (es.map .event ++ [.result r]))
    (hothers : ∀ v, v ≠ u → outOf v t = outOf v s) : resultCount t = resultCount s + 1 := by
  have hsum (x : State) : resultCount x = (outOf .csf x).countP isResult + (outOf .ffc x).countP isResult +
      (outOf .mbc x).countP isResult + (outOf .reserved x).countP isResult := rfl
  have hone : (outOf u t).countP isResult = (outOf u s).countP isResult + 1 := by
    rw [hout, List.countP_append, countP_isResult_delivered]
  rw [hsum, hsum]
  cases u with
  | csf => rw [hone, hothers .ffc nofun, hothers .mbc nofun, hothers .reserved nofun]; omega
  | ffc => rw [hone, hothers .csf nofun, hothers .mbc nofun, hothers .reserved nofun]; omega
  | mbc => rw [hone, hothers .csf nofun, hothers .ffc nofun, hothers .reserved nofun]; omega
  | reserved => rw [hone, hothers .csf nofun, hothers .ffc nofun, hothers .mbc nofun]; omega

/-- An operation answers with one result: its own unit delivers one (00_scope R13), and the streams of the other units
stay as they are (10_state R20). -/
theorem exec_answersWith_one {i : Instr} (hi : isOperation i = true) (s : State) :
    ∃ t, exec i s = .next t ∧ AnswersWith 1 s t := by
  obtain ⟨t, hexec, es, r, hout, -⟩ := exec_deliversOneResult s i hi
  obtain ⟨t', hexec', hkeeps⟩ := exec_keepsHost i s
  cases hexec.symm.trans hexec'
  exact ⟨t, hexec, hkeeps, resultCount_of_delivered hout fun _ => exec_outOf_other hexec⟩

theorem answersWith_of_exec {i : Instr} (hi : isOperation i = true) {s t : State} (h : exec i s = .next t) :
    AnswersWith 1 s t := by
  obtain ⟨t', hexec, hanswers⟩ := exec_answersWith_one hi s
  cases h.symm.trans hexec
  exact hanswers

/-- `IllegalOp` is the answer of each unit to a reserved code (30_encoding R93). -/
theorem answersWith_illegalOp (u : UnitId) (s : State) : AnswersWith 1 s (raise u .illegalOp s) := by
  cases u with
  | csf => exact answersWith_of_exec (i := .reserved000110) rfl rfl
  | ffc => exact answersWith_of_exec (i := .reserved011000) rfl rfl
  | mbc => exact answersWith_of_exec (i := .reserved100100) rfl rfl
  | reserved => exact answersWith_of_exec (i := .reservedUnit11 0) rfl rfl

/-- Unit MBC answers received bytes one by one (42_mbc_crc16 R191). -/
theorem answersWith_mbcRxAll (bs : List Byte) (s : State) : AnswersWith bs.length s (mbcRxAll bs s) := by
  induction bs generalizing s with
  | nil => exact .refl s
  | cons b bs ih =>
    have hfirst : AnswersWith 1 s (mbcRx b s) := answersWith_of_exec (i := .mbcRx b) rfl rfl
    rw [mbcRxAll_cons, List.length_cons, Nat.add_comm]
    exact hfirst.trans (ih (mbcRx b s))

theorem answersWith_receiveBytes (format : WireFormat) (bs : List Byte) (s : State) :
    AnswersWith (resultsOf (.wire format .receive bs)) s (receiveBytes (formatUnit format) bs s) := by
  cases format with
  | csfFrame => exact answersWith_of_exec (i := .csfPush bs) rfl rfl
  | ffcCmdframe | ffcSample | ffcAuxEnter | ffcAuxExit | ffcAuxSuspend | ffcAuxResume =>
    exact answersWith_of_exec (i := .ffcPush bs) rfl rfl
  | mbcRequest | mbcRespRead | mbcRespWrite | mbcRespException => exact answersWith_mbcRxAll bs s

/-- A frame to be transmitted is transmitted by the operation that builds it (log entry 9). -/
theorem exec_transmitted {cfg : Config} {format : WireFormat} {bs : List Byte} {i : Instr}
    (h : decode cfg (.wire format .transmit bs) = .ok i) :
    ∃ op, isOperation op = true ∧ ∀ s, exec i s = exec op s := by
  obtain ⟨hdir, hcandidate, -⟩ := (decode_wire_iff cfg format .transmit bs i).1 h
  cases format with
  | csfFrame => cases hcandidate; exact ⟨.csfEncode _ _, rfl, fun _ => rfl⟩
  | ffcCmdframe => cases hcandidate; exact ⟨.ffcEncode _ _ _, rfl, fun _ => rfl⟩
  | ffcAuxEnter => cases hcandidate; exact ⟨.ffcAux 0, rfl, fun _ => rfl⟩
  | ffcAuxExit => cases hcandidate; exact ⟨.ffcAux 1, rfl, fun _ => rfl⟩
  | ffcAuxSuspend => cases hcandidate; exact ⟨.ffcAux 2, rfl, fun _ => rfl⟩
  | ffcAuxResume => cases hcandidate; exact ⟨.ffcAux 3, rfl, fun _ => rfl⟩
  | mbcRequest =>
    obtain ⟨kind, -, rfl⟩ := Option.map_eq_some_iff.1 hcandidate
    exact ⟨.mbcReq _ (kindCode kind) _ _, rfl, fun _ => rfl⟩
  | ffcSample | mbcRespRead | mbcRespWrite | mbcRespException => cases hdir

/-- The execution of any item answers a next state and as many results as the item calls for. -/
theorem runItem_answersWith (item : Item) (s : State) :
    ∃ t, runItem item s = .next t ∧ AnswersWith (resultsOf item) s t := by
  match item with
  | .request r =>
    obtain ⟨i, hdecode, hi, -⟩ := everyRequestRecordDecodes s.cfg r
    rw [runItem_ok _ i s hdecode]
    exact exec_answersWith_one hi s
  | .wire format .receive bs => exact ⟨_, runItem_received format bs s, answersWith_receiveBytes format bs s⟩
  | .wire format .transmit bs =>
    cases hdecode : decode s.cfg (.wire format .transmit bs) with
    | ok i =>
      obtain ⟨op, hop, hexec⟩ := exec_transmitted hdecode
      rw [runItem_ok _ i s hdecode, hexec s]
      exact exec_answersWith_one hop s
    | error e => exact ⟨_, runItem_error _ e s hdecode, answersWith_illegalOp (formatUnit format) s⟩

/-- Settles O6: every instruction acts on its own unit alone, and every step is a reset, an execution or an
acceptance. -/
theorem everyInstructionGoesOn : Obligations.EveryInstructionGoesOn := by
  refine ⟨fun i s => ?instruction, fun s hok => ?step⟩
  case instruction =>
    obtain ⟨t, hexec, hkeeps⟩ := exec_keepsHost i s
    exact ⟨t, hexec, hkeeps.cfg, hkeeps.host⟩
  case step =>
    cases hpin : s.host.resetPin with
    | true => exact ⟨_, step_reset s hok hpin⟩
    | false =>
      cases haccepted : s.host.accepted with
      | none => exact ⟨_, step_accepts s hok hpin haccepted⟩
      | some item =>
        obtain ⟨t, hrun, -⟩ := runItem_answersWith item (retire s)
        exact ⟨t, (step_runs s item hok hpin haccepted).trans hrun⟩

/-! ## Two steps serve one item -/

/-- Legal parameters, no reset, and nothing accepted: the next step accepts what waits. -/
structure ReadyToAccept (s : State) : Prop where
  ok : s.cfg.Ok
  resetPin : s.host.resetPin = false
  accepted : s.host.accepted = none

theorem run_succ_of_step {s t : State} (h : step s = .next t) (k : Nat) :
    Host.Core.run Sys2Proof.core (k + 1) s = Host.Core.run Sys2Proof.core k t := by
  simp only [Host.Core.run, Host.Check.core_step, h]

/-- A count over the waiting requests falls by what the request taken from the head of one agent's list counts. -/
theorem sum_waiting_of_taken {p p' : Pending} {a : Agent} {item : Item} {rest : List Item} (f : Item → Nat)
    (htaken : waitingAt p a = item :: rest) (hrest : waitingAt p' a = rest)
    (hothers : ∀ b, b ≠ a → waitingAt p' b = waitingAt p b) :
    (allAgents.map fun b => ((waitingAt p b).map f).sum).sum =
      f item + (allAgents.map fun b => ((waitingAt p' b).map f).sum).sum := by
  cases a <;> simp [allAgents, htaken, hrest, hothers] <;> omega

theorem waitingCount_eq_sum (p : Pending) :
    waitingCount p = (allAgents.map fun a => ((waitingAt p a).map fun _ => 1).sum).sum := by
  simp [waitingCount]

/-- One item is accepted and executed; what has been answered and what is still to be answered stay the same in all. -/
theorem two_steps_serve_one_item {s : State} (hs : ReadyToAccept s) (hwaits : 0 < waitingCount s.host.pending) :
    ∃ u, (∀ k, Host.Core.run Sys2Proof.core (k + 2) s = Host.Core.run Sys2Proof.core k u) ∧ ReadyToAccept u ∧
      waitingCount s.host.pending = 1 + waitingCount u.host.pending ∧
      resultCount u + waitingResults u.host.pending = resultCount s + waitingResults s.host.pending := by
  obtain ⟨a, item, rest, t, htaken, hstep, haccepted, hrest, hothers, hcfg, hcsf, hffc, hmbc, hout, hpin⟩ :=
    stepAcceptsTheOldestRequestOfAnAgent s hs.ok hs.resetPin hs.accepted hwaits
  have hok : t.cfg.Ok := hcfg ▸ hs.ok
  obtain ⟨u, hrun, hanswers⟩ := runItem_answersWith item (retire t)
  have hstep' : step t = .next u := (step_runs t item hok hpin haccepted).trans hrun
  have hpending : u.host.pending = t.host.pending := hanswers.pending
  have hcount : resultCount (retire t) = resultCount s := by
    show resultCount t = resultCount s
    simp only [resultCount, hcsf, hffc, hmbc, hout]
  refine ⟨u, fun k => (run_succ_of_step hstep (k + 1)).trans (run_succ_of_step hstep' k), ?ready, ?fewer, ?balance⟩
  case ready =>
    exact ⟨hanswers.cfg ▸ hok, hanswers.resetPin.trans hpin, hanswers.accepted⟩
  case fewer =>
    rw [hpending, waitingCount_eq_sum, waitingCount_eq_sum]
    exact sum_waiting_of_taken (fun _ => 1) htaken hrest hothers
  case balance =>
    have hresults : waitingResults s.host.pending = resultsOf item + waitingResults t.host.pending :=
      sum_waiting_of_taken resultsOf htaken hrest hothers
    have hanswered := hanswers.results
    rw [hpending]
    omega

/-- Settles O5, by induction on the number of waiting items: two steps serve one of them. -/
theorem everyRequestedOperationIsExecuted : Obligations.EveryRequestedOperationIsExecuted := by
  intro s hok hpin haccepted
  generalize hn : waitingCount s.host.pending = n
  induction n generalizing s with
  | zero =>
    have hnone := waitingResults_of_none_waiting ((waitingCount_eq_zero_iff _).1 hn)
    exact ⟨s, rfl, hn, haccepted, by rw [hnone, Nat.add_zero]⟩
  | succ n ih =>
    obtain ⟨u, hrun, hu, hfewer, hbalance⟩ := two_steps_serve_one_item ⟨hok, hpin, haccepted⟩ (by omega)
    obtain ⟨t, hrun', hnone, haccepted', hresults⟩ := ih u hu.ok hu.resetPin hu.accepted (by omega)
    exact ⟨t, (hrun (2 * n)).trans hrun', hnone, haccepted', hresults.trans hbalance⟩

end Sys2Proof.Machine
end

section
/-! Proofs for spec/70_reset_and_hazards.md: what the reset input makes of any state (R290, R291), and that the block
waits after reset (R290). -/

namespace Sys2Proof.Machine

/-! ## The reset input -/

theorem resetBlock_atResetValues (s : State) : atResetValues (resetBlock s) :=
  ⟨⟨rfl, rfl⟩, ⟨rfl, rfl⟩, rfl, rfl, rfl, rfl, rfl, rfl⟩

theorem resetBlock_sameOutputs (s : State) : sameOutputs s (resetBlock s) :=
  ⟨⟨rfl, rfl⟩, ⟨rfl, rfl⟩, rfl, rfl⟩

@[simp] theorem resetBlock_cfg (s : State) : (resetBlock s).cfg = s.cfg := rfl
@[simp] theorem resetBlock_accepted (s : State) : (resetBlock s).host.accepted = none := rfl
@[simp] theorem resetBlock_resetPin (s : State) : (resetBlock s).host.resetPin = false := rfl

/-- Reset has nothing left to do in the reset state. -/
theorem resetBlock_reset : resetBlock State.reset = State.reset := rfl

/-! ## Waiting -/

/-- With no request waiting there is no agent to serve. -/
theorem acceptNext_of_none_waiting {s : State} (h : waitingCount s.host.pending = 0) : acceptNext s = s := by
  have hnone : waitingAgents s.host.pending = [] := List.eq_nil_iff_forall_not_mem.2 fun a ha =>
    (mem_waitingAgents_iff _ a).1 ha ((waitingCount_eq_zero_iff _).1 h a)
  simp only [acceptNext, hnone, chooseAgent]

/-- A step with nothing to reset, nothing accepted and nothing waiting changes nothing. -/
theorem step_waits {s : State} (hs : ReadyToAccept s) (h : waitingCount s.host.pending = 0) : step s = .next s := by
  rw [step_accepts s hs.ok hs.resetPin hs.accepted, acceptNext_of_none_waiting h]

theorem reset_readyToAccept : ReadyToAccept State.reset := ⟨standard_ok, rfl, rfl⟩

/-- Settles O1: the reset state is what the reset input makes of itself, and nothing waits in it; from any other state
the step is the reset. -/
theorem resetGivesTheStatedValues : Obligations.ResetGivesTheStatedValues := by
  refine ⟨⟨?values, ?waits⟩, fun s hok hpin => ?input⟩
  case values => exact resetBlock_reset ▸ resetBlock_atResetValues State.reset
  case waits => exact step_waits reset_readyToAccept rfl
  case input =>
    exact ⟨resetBlock s, step_reset s hok hpin, resetBlock_atResetValues s, resetBlock_sameOutputs s,
      resetBlock_cfg s, resetBlock_accepted s, resetBlock_resetPin s⟩

end Sys2Proof.Machine
end

section
/-! Proofs for spec/95_test_vectors.md: the records and frames written out there are what the encoder writes for the
instructions they stand for (P4, P5, E4, M5, V50). -/

namespace Sys2Proof.Machine

/-- What the encoder writes for a well-formed instruction under the standard parameters stands for that instruction. -/
theorem decode_standard_of_encode {item : Item} {i : Instr} (hwf : i.wellFormed Config.standard = true)
    (hencode : encode Config.standard i = item) : decode Config.standard item = .ok i :=
  hencode ▸ decodeOfEncodeIsTheInstruction Config.standard i standard_ok hwf

/-- M5 of 95_test_vectors: the CRC of a write response's body is `CC8F`. -/
theorem crc16_writeResponse_m5 : crc16 [0x01, 0x06, 0x00, 0x10, 0x09, 0xC4] = 0xCC8F := by decide +kernel

/-- The frame of M5, with that CRC at its end, the low byte first (30_encoding R88, 42_mbc_crc16 R181). -/
theorem mbcWriteBytes_m5 :
    mbcWriteBytes 0x01 0x06 0x0010 0x09C4 = [0x01, 0x06, 0x00, 0x10, 0x09, 0xC4, 0x8F, 0xCC] := by
  change withCrc [0x01, 0x06, 0x00, 0x10, 0x09, 0xC4] = _
  rw [withCrc, crc16_writeResponse_m5]
  rfl

/-- Settles O57: each record and each frame is what the encoder writes for its instruction; only the frame of the write
response has a field to be computed, its CRC. -/
theorem specWordsDecode : Obligations.SpecWordsDecode := by
  refine ⟨?csfDecode, ?ffcEncode, ?mbcReq, ?reserved, ?ffcFrame, ?mbcFrame⟩
  case csfDecode | ffcEncode | mbcReq | reserved | ffcFrame => exact decode_standard_of_encode rfl rfl
  case mbcFrame => exact decode_standard_of_encode rfl (congrArg (Item.wire .mbcRespWrite .receive) mbcWriteBytes_m5)

end Sys2Proof.Machine
end
